-- ==== Sys2Proof/Word.lean ====
section
/-! DEFINITION. The word types of the machine (00_scope.md R3, R4). Every value is an unsigned number. -/

namespace Sys2Proof

/-- A byte of program memory: BYTE_W = 8 (R3). -/
abbrev Byte := BitVec 8

/-- A register A, B, C, INIT_A, INIT_B or INIT_C: REG_W = 64 (R3, R20, R29). -/
abbrev Word := BitVec 64

/-- The instruction pointer: IP_W = 16 (R3, R24). -/
abbrev IpWord := BitVec 16

/-- The program length register: PLEN_W = 16 (R3, R28). -/
abbrev PlenWord := BitVec 16

/-- One entry of the output tape: TAPE_ENTRY_W = 3 (R3, R26). -/
abbrev Digit := BitVec 3

end Sys2Proof
end

