-- ==== Sys2Proof/Syntax.lean ====
section
/-! DEFINITION. The instructions (30_encoding.md R75) and their operands (R73, R74). -/

namespace Sys2Proof

/-- The register file: exactly three registers (10_state.md R20). -/
inductive Reg where
  | A
  | B
  | C
deriving DecidableEq, Repr

/-- A combo operand (R74). An operand byte from 7 to 255 is part of the syntax: it is decoded, and its instruction
raises InvalidOperand when it executes (R78). -/
inductive Combo where
  /-- OPD 0 to 3: a literal. -/
  | lit (n : BitVec 2)
  /-- OPD 4, 5, 6: register A, B, C. -/
  | reg (r : Reg)
  /-- OPD 7 to 255: invalid. -/
  | invalid (opd : Byte)
deriving DecidableEq, Repr

/-- The eight instructions (R2, R75), one constructor per row of the opcode table. -/
inductive Instr where
  /-- Opcode 0: A ← A >> combo (R111). -/
  | adv (operand : Combo)
  /-- Opcode 1: B ← B xor literal (R120). -/
  | bxl (literal : Byte)
  /-- Opcode 2: B ← combo mod 8 (R121). -/
  | bst (operand : Combo)
  /-- Opcode 3: if A ≠ 0, IP ← literal (R130). -/
  | jnz (target : Byte)
  /-- Opcode 4: B ← B xor C; the operand byte is ignored (R122, R77). -/
  | bxc (ignored : Byte)
  /-- Opcode 5: emit combo mod 8 (R140). -/
  | out (operand : Combo)
  /-- Opcode 6: B ← A >> combo (R112). -/
  | bdv (operand : Combo)
  /-- Opcode 7: C ← A >> combo (R113). -/
  | cdv (operand : Combo)
deriving DecidableEq, Repr

end Sys2Proof
end

