-- ==== Sys2Proof/WellFormed.lean ====
section
/-! DEFINITION. Which terms of the syntax stand for a pair of bytes (30_encoding.md R74, R78). -/

namespace Sys2Proof

/-- A combo operand stands for exactly one operand byte: `invalid` holds a byte from 7 to 255 only (R74). -/
abbrev Combo.wf : Combo → Prop
  | .lit _ => True
  | .reg _ => True
  | .invalid opd => 7 ≤ opd.toNat

/-- The same for instructions; literal and ignored operands may hold any byte (R76, R77). -/
abbrev Instr.wf : Instr → Prop
  | .adv o => o.wf
  | .bxl _ => True
  | .bst o => o.wf
  | .jnz _ => True
  | .bxc _ => True
  | .out o => o.wf
  | .bdv o => o.wf
  | .cdv o => o.wf

end Sys2Proof
end

