-- ==== Sys2Proof/Decode.lean ====
section
/-! DEFINITION. From the two bytes of an instruction to the instruction and back (30_encoding.md R70 to R78). -/

namespace Sys2Proof

/-- Why bytes are no instruction. -/
inductive DecodeError where
  /-- The opcode byte is 8 to 255 (R72): the step raises InvalidOpcode. -/
  | invalidOpcode (opc : Byte)
  /-- Fewer than two bytes: never decoded (R80). -/
  | truncated
deriving DecidableEq, Repr

/-- The reading of a combo operand byte (R74). -/
def Combo.ofByte (opd : Byte) : Combo :=
  match opd.toNat with
  | 0 => .lit 0
  | 1 => .lit 1
  | 2 => .lit 2
  | 3 => .lit 3
  | 4 => .reg .A
  | 5 => .reg .B
  | 6 => .reg .C
  | _ => .invalid opd

/-- The operand byte of a combo operand (R74, read backwards). -/
def Combo.toByte : Combo → Byte
  | .lit n => n.setWidth 8
  | .reg .A => 4
  | .reg .B => 5
  | .reg .C => 6
  | .invalid opd => opd

/-- The decoder: the opcode is the whole byte OPC, and each opcode has a fixed operand mode (R72, R73, R75). -/
def decode (opc opd : Byte) : Except DecodeError Instr :=
  match opc.toNat with
  | 0 => .ok (.adv (Combo.ofByte opd))
  | 1 => .ok (.bxl opd)
  | 2 => .ok (.bst (Combo.ofByte opd))
  | 3 => .ok (.jnz opd)
  | 4 => .ok (.bxc opd)
  | 5 => .ok (.out (Combo.ofByte opd))
  | 6 => .ok (.bdv (Combo.ofByte opd))
  | 7 => .ok (.cdv (Combo.ofByte opd))
  | _ => .error (.invalidOpcode opc)

/-- The decoder on a byte sequence: the instruction is the first two bytes, whatever they hold (R79), and the rest
follows it. A lone byte is never decoded (R80). -/
def decodeBytes : List Byte → Except DecodeError (Instr × List Byte)
  | opc :: opd :: rest => (decode opc opd).map fun i => (i, rest)
  | _ => .error .truncated

/-- The opcode byte of an instruction (R75). -/
def Instr.opcode : Instr → Byte
  | .adv _ => 0
  | .bxl _ => 1
  | .bst _ => 2
  | .jnz _ => 3
  | .bxc _ => 4
  | .out _ => 5
  | .bdv _ => 6
  | .cdv _ => 7

/-- The operand byte of an instruction (R73, R74, R76, R77). -/
def Instr.operand : Instr → Byte
  | .adv o => o.toByte
  | .bxl k => k
  | .bst o => o.toByte
  | .jnz t => t
  | .bxc x => x
  | .out o => o.toByte
  | .bdv o => o.toByte
  | .cdv o => o.toByte

/-- The encoder: the bytes at IP and IP + 1 (R70). -/
def encode (i : Instr) : Byte × Byte := (i.opcode, i.operand)

/-- The opcode table's number for a pair of bytes: iw = OPC * 256 + OPD (R71). -/
def tableWord (opc opd : Byte) : BitVec 16 := opc ++ opd

/-- The two bytes, opcode first, of the table's number `w` of `nbits` bits: bits 15 to 8 are OPC and bits 7 to 0 are
OPD (R71); bits above `nbits` are 0. -/
def tableBytes (nbits w : Nat) : Byte × Byte :=
  let iw := w % 2 ^ nbits
  (BitVec.ofNat 8 (iw / 256), BitVec.ofNat 8 iw)

/-- The instruction the decoder reads from a word of the opcode table, laid out as the block stores it: OPC at the
lower address (R70, R71; notes/assumptions/13.md). -/
def decodeTableWord (nbits w : Nat) : Option Instr :=
  match decode (tableBytes nbits w).1 (tableBytes nbits w).2 with
  | .ok i => some i
  | .error _ => none

end Sys2Proof
end

