-- ==== Sys2Proof/Config.lean ====
section
/-! DEFINITION. What an implementation fixes (00_scope.md R3) and the values the spec leaves free
(93_implementation_defined.md part 2). -/

namespace Sys2Proof.Config

/-- PROG_CAP: bytes of program memory (R3, R28). -/
abbrev progCap : Nat := 256

/-- The OPEN parameters of R3. A model takes them as arguments; State carries them and no step changes them
(notes/assumptions/1.md, DESIGN CHOICE). -/
structure Params where
  /-- TAPE_CAP: entries of the output tape. -/
  tapeCap : Nat
  /-- TLEN_W: width of TLEN. -/
  tlenW : Nat
  /-- STEP_LIMIT: most instructions one run may execute. -/
  stepLimit : Nat
  /-- STEPS_W: width of STEPS. -/
  stepsW : Nat
deriving DecidableEq, Repr

/-- The constraints R3 puts on the OPEN parameters. -/
abbrev Params.valid (p : Params) : Prop :=
  1 ≤ p.tapeCap ∧ p.tapeCap ≤ 2 ^ p.tlenW - 1 ∧ 1 ≤ p.stepLimit ∧ p.stepLimit ≤ 2 ^ p.stepsW - 1

/-- The parameters State.reset carries: STEP_LIMIT and TAPE_CAP as the test vectors' convention
(95_test_vectors.md), the widths 16. DESIGN CHOICE (notes/assumptions/1.md): no statement rests on these values. -/
def resetParams : Params := { tapeCap := 1000, tlenW := 16, stepLimit := 1000, stepsW := 16 }

/-- The free contents of program memory after a RESET (R180: "unspecified (any byte)"): the byte at an address
after the given number of RESETs. No body: nothing constrains it (notes/assumptions/2.md). -/
opaque pmemAtReset : Nat → Nat → Byte

/-- The free contents of the tape after a RESET (R180: "unspecified (any value 0 to 7)"): the entry at an index
after the given number of RESETs (notes/assumptions/3.md). -/
opaque tapeAtReset : Nat → Nat → Digit

/-- The unspecified value that the host's n-th such read returns (R36, R37, R38), before it is cut to the width
of what is read (notes/assumptions/5.md). -/
opaque hostReadValue : Nat → Nat

end Sys2Proof.Config
end

