-- ==== Sys2Proof/Machine/State.lean ====
section
/-! DEFINITION. The state of the block (10_state.md), of the host agent beside it, and why a step of the model can
stop. Plain data. -/

namespace Sys2Proof.Machine

/-- The run-control register STATE (R31). -/
inductive RunState where
  /-- 0: no run has started since reset. -/
  | idle
  /-- 1: a run is in progress. -/
  | running
  /-- 2: the last run ended by the halt test. -/
  | halted
  /-- 3: the last run ended by a fault. -/
  | faulted
deriving DecidableEq, Repr

/-- The causes a fault of the block can have (60_exceptions.md R151), without NONE. -/
inductive FaultCause where
  | invalidOpcode
  | invalidOperand
  | executionLimitExceeded
  | tapeOverflow
deriving DecidableEq, Repr

/-- One move of the host (R35 to R40). Each falls between two steps of the block. -/
inductive HostMove where
  /-- The host does nothing, and the block takes its step (R40 "Wait"). -/
  | wait
  /-- Write host register number n (R34, R35). -/
  | writeRegister (n : BitVec 4) (v : Nat)
  /-- Write a byte of program memory (R36). -/
  | writePmem (a : Nat) (b : Byte)
  /-- Read host register number n (R34, R37). -/
  | readRegister (n : BitVec 4)
  /-- Read a byte of program memory (R36). -/
  | readPmem (a : Nat)
  /-- Read an entry of the tape (R38). -/
  | readTape (i : Nat)
  /-- The command START (R39, R182). -/
  | start
  /-- The command RESET (R39, R180, R181). -/
  | reset
deriving DecidableEq, Repr

/-- The whole machine. TLEN and STEPS are natural numbers, bounded by TAPE_CAP and STEP_LIMIT (R3 gives them widths
that hold those; notes/assumptions/12.md). -/
structure State where
  /-- Register A (R20). -/
  a : Word
  /-- Register B (R20). -/
  b : Word
  /-- Register C (R20). -/
  c : Word
  /-- The instruction pointer IP (R24). -/
  ip : IpWord
  /-- The program length register PLEN (R28). -/
  plen : PlenWord
  /-- Program memory PMEM (R28): the bytes written since the last RESET, addresses strictly rising. A byte not
  listed holds its free value (notes/assumptions/2.md). -/
  pmem : List Host.Cell
  /-- The output tape TAPE (R26): the entries written since the last RESET, indexes strictly rising. -/
  tape : List (Nat × Digit)
  /-- The tape length register TLEN (R26). -/
  tlen : Nat
  /-- The initial-value register INIT_A (R29). -/
  initA : Word
  /-- The initial-value register INIT_B (R29). -/
  initB : Word
  /-- The initial-value register INIT_C (R29). -/
  initC : Word
  /-- The run-control register STATE (R31). -/
  runState : RunState
  /-- The run-control register CAUSE (R31, R151). -/
  cause : BitVec 4
  /-- The run-control register STEPS (R31, R162). -/
  steps : Nat
  /-- The OPEN parameters of R3, which no step changes (the model's field, notes/assumptions/1.md). -/
  params : Config.Params
  /-- How many RESETs there have been: which free contents PMEM and TAPE have (the model's field). -/
  resets : Nat
  /-- How many unspecified values host reads have returned (the model's field). -/
  draws : Nat
  /-- What the host is going to do, first move first; empty: it only waits (the model's field). -/
  hostMoves : List HostMove
  /-- What the host's last move got back (the model's field). -/
  reply : Option Nat
deriving DecidableEq, Repr

/-- Why the model stops with a fault. Both arise only in states that break a bound every reachable state keeps; the
faults of the SPEC are next states (R150). -/
inductive Fault where
  /-- Raised by the fetch at an address that PMEM does not have (R50, R51; notes/assumptions/8.md). Safe. -/
  | fetchOutsidePmem (address : Nat)
  /-- Raised by a tape append at an index that TAPE does not have (R50; notes/assumptions/9.md). Safe. -/
  | appendOutsideTape (index : Nat)
deriving DecidableEq, Repr

/-- Why the model refuses. -/
inductive Refusal where
  /-- Raised by an arm of exec whose instruction has no meaning yet. No arm does. Safe. -/
  | notModelled (mnemonic : String)
  /-- Raised by the step in a state whose CAUSE register holds a reserved code 5 to 15
  (93_implementation_defined.md part 2; notes/assumptions/10.md). Safe. -/
  | reservedCause (code : BitVec 4)
deriving DecidableEq, Repr

/-- What a step answers. -/
abbrev Result := Host.Outcome State Fault Refusal

/-- The machine right after RESET (70_reset_and_hazards.md R180). The parameters and the model's own fields are
DESIGN CHOICEs (notes/assumptions/1.md, 4.md, 19.md). -/
def State.reset : State where
  a := 0
  b := 0
  c := 0
  ip := 0
  plen := 0
  pmem := []
  tape := []
  tlen := 0
  initA := 0
  initB := 0
  initC := 0
  runState := .idle
  cause := 0
  steps := 0
  params := Config.resetParams
  resets := 0
  draws := 0
  hostMoves := []
  reply := none

end Sys2Proof.Machine
end

