-- ==== Sys2Proof/Machine/Ops.lean ====
section
/-! DEFINITION. The named operations over memories, registers and run control that the meanings share. -/

namespace Sys2Proof.Machine

/-! ### Sparse memories: PMEM (R28) and TAPE (R26) -/

/-- The cell written at an address, if one is listed. -/
def Memory.read {w : Nat} : List (Nat × BitVec w) → Nat → Option (BitVec w)
  | [], _ => none
  | (k, v) :: rest, a => if k = a then some v else Memory.read rest a

/-- Write one cell, keeping addresses strictly rising. -/
def Memory.write {w : Nat} : List (Nat × BitVec w) → Nat → BitVec w → List (Nat × BitVec w)
  | [], a, v => [(a, v)]
  | (k, u) :: rest, a, v =>
    if a < k then (a, v) :: (k, u) :: rest
    else if a = k then (a, v) :: rest
    else (k, u) :: Memory.write rest a v

/-- The canonical form: addresses strictly rising. An unlisted cell was not written since RESET; a listed one was,
so that no listed cell equals what an unlisted one is (notes/assumptions/2.md). -/
abbrev Memory.wf {w : Nat} (m : List (Nat × BitVec w)) : Prop := (m.map Prod.fst).Pairwise (· < ·)

/-- Every listed address is one the memory has (R50). -/
abbrev Memory.below {w : Nat} (m : List (Nat × BitVec w)) (cap : Nat) : Prop := ∀ k ∈ m.map Prod.fst, k < cap

/-- The byte PMEM[a]: the one written there, or else its free contents since the last RESET (R51, R180). -/
def State.pmemByte (s : State) (a : Nat) : Byte := (Memory.read s.pmem a).getD (Config.pmemAtReset s.resets a)

/-- The entry TAPE[i]: the one written there, or else its free contents since the last RESET (R26, R180). -/
def State.tapeEntry (s : State) (i : Nat) : Digit := (Memory.read s.tape i).getD (Config.tapeAtReset s.resets i)

/-- PMEM[a] <- v (R36). -/
def State.writePmem (s : State) (a : Nat) (v : Byte) : State := { s with pmem := Memory.write s.pmem a v }

/-- TAPE[TLEN] <- v; TLEN <- TLEN + 1 (R5, R140). -/
def State.tapeAppend (s : State) (v : Digit) : State :=
  { s with tape := Memory.write s.tape s.tlen v, tlen := s.tlen + 1 }

/-! ### Registers -/

/-- x[r] (R5, R20). -/
def State.readReg (s : State) : Reg → Word
  | .A => s.a
  | .B => s.b
  | .C => s.c

/-- x[r] <- v (R5, R20). -/
def State.writeReg (s : State) (r : Reg) (v : Word) : State :=
  match r with
  | .A => { s with a := v }
  | .B => { s with b := v }
  | .C => { s with c := v }

/-- v >> n = floor(v / 2^n) for every n, 0 for n of 64 and more (R110). -/
def shiftRight (v n : Word) : Word := if n.toNat < 64 then v >>> n.toNat else 0

/-! ### The end of an instruction -/

/-- An instruction completes and the next one is at `target`: IP and STEPS (R95, R96, R130). -/
def State.retireAt (s : State) (target : IpWord) : State := { s with ip := target, steps := s.steps + 1 }

/-- The sequential advance of every instruction but a taken jnz (R95). -/
def State.advance (s : State) : State := s.retireAt (s.ip + 2)

/-! ### Halting and faulting -/

/-- The code of a STATE (R31). -/
def RunState.code : RunState → BitVec 2
  | .idle => 0
  | .running => 1
  | .halted => 2
  | .faulted => 3

/-- The code of a cause (R151). -/
def FaultCause.code : FaultCause → BitVec 4
  | .invalidOpcode => 1
  | .invalidOperand => 2
  | .executionLimitExceeded => 3
  | .tapeOverflow => 4

/-- The halt: STATE <- HALTED and nothing else (R91). -/
def State.halt (s : State) : State := { s with runState := .halted }

/-- raise Fault(cause): STATE <- FAULTED, CAUSE <- cause, and nothing else (R150). Nothing is saved and no handler
runs; no instruction returns from a fault (R158), and only START or RESET leaves FAULTED (R32). -/
def State.raise (s : State) (cause : FaultCause) : State := { s with runState := .faulted, cause := cause.code }

end Sys2Proof.Machine
end

