-- ==== Sys2Proof/Machine/Operands.lean ====
section
/-! DEFINITION. The two operand resolvers (40_dispatch.md R97, R98) and the tape-full test of out (R140). -/

namespace Sys2Proof.Machine

/-- The literal resolver returns the byte unchanged and never faults (R97). -/
def resolveLiteral (opd : Byte) : Byte := opd

/-- The combo resolver (R74, R98); `none` where it raises InvalidOperand. It reads the registers as they are before
the instruction (R99). -/
def resolveCombo (o : Combo) (s : State) : Option Word :=
  match o with
  | .lit n => some (n.setWidth 64)
  | .reg r => some (s.readReg r)
  | .invalid _ => none

/-- An instruction with a combo operand: resolve it once, before anything is written; an invalid operand raises
InvalidOperand and the instruction has no effect (R98, R150, R153). -/
def withCombo (o : Combo) (s : State) (arm : Word → Result) : Result :=
  match resolveCombo o s with
  | some v => arm v
  | none => .next (s.raise .invalidOperand)

/-- The append of out and the advance after it: a full tape raises TapeOverflow (R140, R155). An index beyond
TAPE_CAP, which no reachable state has, is no entry of the tape (notes/assumptions/9.md). -/
def emit (v : Digit) (s : State) : Result :=
  if s.tlen = s.params.tapeCap then .next (s.raise .tapeOverflow)
  else if s.params.tapeCap < s.tlen then .fault (.appendOutsideTape s.tlen)
  else .next (s.tapeAppend v).advance

end Sys2Proof.Machine
end

