-- ==== Sys2Proof/Machine/Control.lean ====
section
/-! DEFINITION. jnz (43_control.md). -/

namespace Sys2Proof.Machine

/-- jnz: if x[A] is not 0, pc <- zext(t), unchecked (R130, R131); otherwise the sequential advance (R95). -/
def execJnz (t : Byte) (s : State) : Result :=
  if s.readReg .A ≠ 0 then .next (s.retireAt ((resolveLiteral t).setWidth 16)) else .next s.advance

end Sys2Proof.Machine
end

