-- ==== Sys2Proof/Machine/Output.lean ====
section
/-! DEFINITION. out (44_output.md). -/

namespace Sys2Proof.Machine

/-- out: append v mod 8 to the tape; the operand is resolved before the tape is tested (R140, R157). -/
def execOut (o : Combo) (s : State) : Result :=
  withCombo o s fun v => emit (v.setWidth 3) s

end Sys2Proof.Machine
end

