-- ==== Sys2Proof/Machine/RegisterLogic.lean ====
section
/-! DEFINITION. bxl, bst and bxc (42_register_logic.md). -/

namespace Sys2Proof.Machine

/-- bxl: x[B] <- x[B] xor zext(k) (R120). -/
def execBxl (k : Byte) (s : State) : Result :=
  .next (s.writeReg .B (s.readReg .B ^^^ (resolveLiteral k).setWidth 64)).advance

/-- bst: x[B] <- v mod 8 (R121). -/
def execBst (o : Combo) (s : State) : Result :=
  withCombo o s fun v => .next (s.writeReg .B (v % 8)).advance

/-- bxc: x[B] <- x[B] xor x[C]; the operand byte is not read (R122, R77). -/
def execBxc (_ignored : Byte) (s : State) : Result :=
  .next (s.writeReg .B (s.readReg .B ^^^ s.readReg .C)).advance

end Sys2Proof.Machine
end

