-- ==== Sys2Proof/Machine/Shift.lean ====
section
/-! DEFINITION. adv, bdv and cdv (41_shift.md). -/

namespace Sys2Proof.Machine

/-- adv: x[A] <- x[A] >> n (R111). -/
def execAdv (o : Combo) (s : State) : Result :=
  withCombo o s fun n => .next (s.writeReg .A (shiftRight (s.readReg .A) n)).advance

/-- bdv: x[B] <- x[A] >> n (R112). -/
def execBdv (o : Combo) (s : State) : Result :=
  withCombo o s fun n => .next (s.writeReg .B (shiftRight (s.readReg .A) n)).advance

/-- cdv: x[C] <- x[A] >> n (R113). -/
def execCdv (o : Combo) (s : State) : Result :=
  withCombo o s fun n => .next (s.writeReg .C (shiftRight (s.readReg .A) n)).advance

end Sys2Proof.Machine
end

