-- ==== Sys2Proof/Machine/Dispatch.lean ====
section
/-! DEFINITION. The dispatch: one arm per opcode and no other arm (40_dispatch.md R94). -/

namespace Sys2Proof.Machine

def exec (i : Instr) (s : State) : Host.Outcome State Fault Refusal :=
  match i with
  | .adv o => Sys2Proof.Machine.execAdv o s
  | .bxl k => Sys2Proof.Machine.execBxl k s
  | .bst o => Sys2Proof.Machine.execBst o s
  | .jnz t => Sys2Proof.Machine.execJnz t s
  | .bxc x => Sys2Proof.Machine.execBxc x s
  | .out o => Sys2Proof.Machine.execOut o s
  | .bdv o => Sys2Proof.Machine.execBdv o s
  | .cdv o => Sys2Proof.Machine.execCdv o s

end Sys2Proof.Machine
end

