-- ==== Sys2Proof/Machine/Block.lean ====
section
/-! DEFINITION. One step of the block (40_dispatch.md R90 to R96). -/

namespace Sys2Proof.Machine

/-- The halt test: no operand byte after the opcode byte (R91). IP + 1 is a natural number and does not wrap. -/
abbrev State.atEnd (s : State) : Prop := s.ip.toNat + 1 ≥ s.plen.toNat

/-- The step cap is reached (R92). -/
abbrev State.atLimit (s : State) : Prop := s.steps = s.params.stepLimit

/-- MemRead(addr, 1): a byte of PMEM (R51). An address PMEM does not have cannot be read (R50;
notes/assumptions/8.md). -/
def memRead (s : State) (address : Nat) : Except Fault Byte :=
  if address < Config.progCap then .ok (s.pmemByte address) else .error (.fetchOutsidePmem address)

/-- Fetch: the opcode byte at IP, then the operand byte at IP + 1 (R93). -/
def fetch (s : State) : Except Fault (Byte × Byte) :=
  match memRead s s.ip.toNat with
  | .error f => .error f
  | .ok opc =>
    match memRead s (s.ip.toNat + 1) with
    | .error f => .error f
    | .ok opd => .ok (opc, opd)

/-- Decode and execute: an opcode byte of 8 or more raises InvalidOpcode (R94, R152). -/
def decodeAndExec (opc opd : Byte) (s : State) : Result :=
  match decode opc opd with
  | .error _ => .next (s.raise .invalidOpcode)
  | .ok i => exec i s

/-- One step of the block, its tests in the order of R157. Outside RUNNING the block takes no step and keeps all of
its state (R90, R166). -/
def blockStep (s : State) : Result :=
  if s.runState ≠ .running then .next s
  else if s.atEnd then .next s.halt
  else if s.atLimit then .next (s.raise .executionLimitExceeded)
  else
    match fetch s with
    | .error f => .fault f
    | .ok (opc, opd) => decodeAndExec opc opd s

end Sys2Proof.Machine
end

