-- ==== Sys2Proof/Machine/Status.lean ====
section
/-! DEFINITION. What the host sees that has no storage of its own: STATUS (10_state.md R33), DONE (R39) and the result
of a run (70_reset_and_hazards.md R183). -/

namespace Sys2Proof.Machine

/-- The STATUS register: [7:4] CAUSE, [3:2] zero, [1:0] STATE (R33). -/
def State.status (s : State) : BitVec 8 := s.cause ++ (0#2 ++ s.runState.code)

/-- The output DONE: 1 exactly when STATE is HALTED or FAULTED (R39). -/
def State.done (s : State) : Bool := s.runState = .halted || s.runState = .faulted

/-- TAPE[0] to TAPE[TLEN - 1]: the digits of the run in the order they were emitted (R26, R141). -/
def State.emitted (s : State) : List Digit := (List.range s.tlen).map s.tapeEntry

/-- The program: PMEM[0] to PMEM[PLEN - 1] (R28). -/
def State.program (s : State) : List Byte := (List.range s.plen.toNat).map s.pmemByte

/-- The result of a run (R183). -/
structure RunResult where
  runState : RunState
  cause : BitVec 4
  tape : List Digit
  a : Word
  b : Word
  c : Word
  ip : IpWord
  steps : Nat
deriving DecidableEq, Repr

/-- The result tuple as it stands in a state (R183). -/
def State.result (s : State) : RunResult where
  runState := s.runState
  cause := s.cause
  tape := s.emitted
  a := s.a
  b := s.b
  c := s.c
  ip := s.ip
  steps := s.steps

end Sys2Proof.Machine
end

