-- ==== Sys2Proof/Machine/HostOps.lean ====
section
/-! DEFINITION. What each move of the host does (10_state.md R34 to R40, 70_reset_and_hazards.md R180 to R185). -/

namespace Sys2Proof.Machine

/-- The host gets a value back. -/
def State.answer (s : State) (v : Nat) : State := { s with reply := some v }

/-- The host gets nothing back. -/
def State.noAnswer (s : State) : State := { s with reply := none }

/-- The host gets an unspecified value back: the next free value, brought into range by `cut`; a new one at every
such read (R36, R37, R38; notes/assumptions/5.md). -/
def State.answerAny (s : State) (cut : Nat → Nat) : State :=
  { s with reply := some (cut (Config.hostReadValue s.draws)), draws := s.draws + 1 }

/-- An unspecified value of a register of `w` bits. -/
def State.answerAnyOfWidth (s : State) (w : Nat) : State := s.answerAny (· % 2 ^ w)

/-- The value of a host register (R34): the registers narrower than a host word read with zeros above their width,
and reserved numbers read 0. -/
def State.hostRegister (s : State) (n : BitVec 4) : Nat :=
  match n.toNat with
  | 0 => s.initA.toNat
  | 1 => s.initB.toNat
  | 2 => s.initC.toNat
  | 3 => s.a.toNat
  | 4 => s.b.toNat
  | 5 => s.c.toNat
  | 6 => s.ip.toNat
  | 7 => s.plen.toNat
  | 8 => s.status.toNat
  | 9 => s.steps
  | 10 => s.tlen
  | _ => 0

/-- The width of a host register (R34); `none` for a reserved number, which has none. -/
def State.hostRegisterWidth (s : State) (n : BitVec 4) : Option Nat :=
  match n.toNat with
  | 0 | 1 | 2 | 3 | 4 | 5 => some 64
  | 6 | 7 => some 16
  | 8 => some 8
  | 9 => some s.params.stepsW
  | 10 => some s.params.tlenW
  | _ => none

/-- A host register write (R35). -/
def State.hostWriteRegister (s : State) (n : BitVec 4) (v : Nat) : State :=
  if s.runState = .running then s
  else
    match n.toNat with
    | 0 => { s with initA := BitVec.ofNat 64 v }
    | 1 => { s with initB := BitVec.ofNat 64 v }
    | 2 => { s with initC := BitVec.ofNat 64 v }
    | 7 => if v ≤ Config.progCap then { s with plen := BitVec.ofNat 16 v } else s
    | _ => s

/-- A host program-memory write (R36). -/
def State.hostWritePmem (s : State) (a : Nat) (b : Byte) : State :=
  if s.runState ≠ .running ∧ a < Config.progCap then s.writePmem a b else s

/-- A host register read (R37). While RUNNING every number but STATUS returns an unspecified value of the register's
width; for a reserved number, which has no width, any value (notes/assumptions/5.md). -/
def State.hostReadRegister (s : State) (n : BitVec 4) : State :=
  if s.runState ≠ .running ∨ n = 8 then s.answer (s.hostRegister n)
  else
    match s.hostRegisterWidth n with
    | some w => s.answerAnyOfWidth w
    | none => s.answerAny id

/-- A host program-memory read (R36). -/
def State.hostReadPmem (s : State) (a : Nat) : State :=
  if s.runState ≠ .running ∧ a < Config.progCap then s.answer (s.pmemByte a).toNat else s.answerAnyOfWidth 8

/-- A host tape read (R38). -/
def State.hostReadTape (s : State) (i : Nat) : State :=
  if s.runState ≠ .running ∧ i < s.tlen then s.answer (s.tapeEntry i).toNat else s.answerAnyOfWidth 3

/-- The command START (R182): ignored while RUNNING; otherwise a fresh run begins. -/
def State.start (s : State) : State :=
  if s.runState = .running then s
  else
    { s with
      a := s.initA
      b := s.initB
      c := s.initC
      ip := 0
      tlen := 0
      steps := 0
      cause := 0
      runState := .running }

/-- The command RESET (R180, R181): every register to its reset value, PMEM and TAPE to new free contents. The
parameters and the host's own progress stand. -/
def State.hostReset (s : State) : State :=
  { State.reset with
    params := s.params
    resets := s.resets + 1
    draws := s.draws
    hostMoves := s.hostMoves }

/-- One move of the host. Only reads answer (R40). `wait` leaves the block alone. -/
def State.hostMove (s : State) : HostMove → State
  | .wait => s
  | .writeRegister n v => (s.hostWriteRegister n v).noAnswer
  | .writePmem a b => (s.hostWritePmem a b).noAnswer
  | .readRegister n => s.hostReadRegister n
  | .readPmem a => s.hostReadPmem a
  | .readTape i => s.hostReadTape i
  | .start => s.start.noAnswer
  | .reset => s.hostReset.noAnswer

/-- The program bytes written from an address on (R184). -/
def loadMoves : Nat → List Byte → List HostMove
  | _, [] => []
  | a, b :: rest => .writePmem a b :: loadMoves (a + 1) rest

/-- The duties of the host before a run, in the order of R184: RESET, the program and its length, the initial
registers, START. -/
def runMoves (program : List Byte) (initA initB initC : Word) : List HostMove :=
  .reset :: loadMoves 0 program ++
    [.writeRegister 7 program.length, .writeRegister 0 initA.toNat, .writeRegister 1 initB.toNat,
      .writeRegister 2 initC.toNat, .start]

end Sys2Proof.Machine
end

