-- ==== Sys2Proof/Machine/Step.lean ====
section
/-! DEFINITION. One step of the machine: the host's next move, or a step of the block (R58, R90). -/

namespace Sys2Proof.Machine

/-- Three outcomes. A reserved CAUSE is refused (notes/assumptions/10.md). Where the host waits, or has no more
moves, the block takes its step; every other move of the host takes effect between two of them. -/
def step (s : State) : Host.Outcome State Fault Refusal :=
  if 4 < s.cause.toNat then .refused (.reservedCause s.cause)
  else
    match s.hostMoves with
    | [] => blockStep s
    | .wait :: rest => blockStep { s with hostMoves := rest }
    | move :: rest => .next ({ s with hostMoves := rest }.hostMove move)

/-- The state whose next step fetches and runs the table's instruction `w`: a run is in progress, the two bytes stand
at IP (at 0 where IP and IP + 1 do not both lie in PMEM) and inside the program, no reserved or stale cause and no
reached cap stands in the way, and the host leaves the block alone (notes/assumptions/14.md). -/
def State.withFetchWord (s : State) (nbits w : Nat) : State :=
  let ip : IpWord := if s.ip.toNat + 1 < Config.progCap then s.ip else 0
  let bytes := tableBytes nbits w
  { s with
    ip := ip
    pmem := Memory.write (Memory.write s.pmem ip.toNat bytes.1) (ip.toNat + 1) bytes.2
    plen := if ip.toNat + 1 < s.plen.toNat then s.plen else ip + 2
    runState := .running
    cause := 0
    steps := if s.atLimit then 0 else s.steps
    hostMoves := [] }

end Sys2Proof.Machine
end

