-- ==== Sys2Proof/Machine/Assembler.lean ====
section
/-! DEFINITION. Assembler and disassembler text of one instruction (30_encoding.md R81) and the interchange form of a
program (R82). Text is a list of characters. The lexical details R81 leaves open are in notes/assumptions/16.md. -/

namespace Sys2Proof.Machine

/-- The digit character of a number below 10. -/
def digitChar (n : Nat) : Char := Char.ofNat (48 + n)

/-- A byte as a decimal number without leading zeros. -/
def decimal (b : Byte) : List Char :=
  let n := b.toNat
  if n < 10 then [digitChar n]
  else if n < 100 then [digitChar (n / 10), digitChar (n % 10)]
  else [digitChar (n / 100), digitChar (n / 10 % 10), digitChar (n % 10)]

/-- The mnemonics (R75). -/
def Instr.mnemonic : Instr → List Char
  | .adv _ => ['a', 'd', 'v']
  | .bxl _ => ['b', 'x', 'l']
  | .bst _ => ['b', 's', 't']
  | .jnz _ => ['j', 'n', 'z']
  | .bxc _ => ['b', 'x', 'c']
  | .out _ => ['o', 'u', 't']
  | .bdv _ => ['b', 'd', 'v']
  | .cdv _ => ['c', 'd', 'v']

/-- The text of a combo operand: `0` to `3`, `A`, `B`, `C`, or `#n` for an illegal one (R81). -/
def Combo.text : Combo → List Char
  | .lit n => decimal (n.setWidth 8)
  | .reg .A => ['A']
  | .reg .B => ['B']
  | .reg .C => ['C']
  | .invalid opd => '#' :: decimal opd

/-- A mnemonic, a space and an operand (R81). -/
def withOperand (mnemonic operand : List Char) : List Char := mnemonic ++ ' ' :: operand

/-- The text of an instruction (R81); `bxc` with operand byte 0 is written without an operand. -/
def Instr.text (i : Instr) : List Char :=
  match i with
  | .adv o | .bst o | .out o | .bdv o | .cdv o => withOperand (Instr.mnemonic i) (Combo.text o)
  | .bxl k => withOperand (Instr.mnemonic i) (decimal k)
  | .jnz t => withOperand (Instr.mnemonic i) (decimal t)
  | .bxc x => if x = 0 then Instr.mnemonic i else withOperand (Instr.mnemonic i) (decimal x)

/-- The disassembler: every pair has a text, `.pair OPC,OPD` where OPC is 8 to 255 (R81). -/
def disassemble (opc opd : Byte) : List Char :=
  match decode opc opd with
  | .ok i => Instr.text i
  | .error _ => ['.', 'p', 'a', 'i', 'r', ' '] ++ decimal opc ++ ',' :: decimal opd

/-- The value of a digit character. -/
def digitValue (ch : Char) : Option Nat :=
  if 48 ≤ ch.toNat ∧ ch.toNat ≤ 57 then some (ch.toNat - 48) else none

/-- Decimal digits read onto a number. -/
def readDigits : Nat → List Char → Option Nat
  | n, [] => some n
  | n, ch :: rest =>
    match digitValue ch with
    | some d => readDigits (10 * n + d) rest
    | none => none

/-- A decimal number from 0 to 255 (R81). -/
def parseDecimal : List Char → Option Byte
  | [] => none
  | text =>
    match readDigits 0 text with
    | some n => if n ≤ 255 then some (BitVec.ofNat 8 n) else none
    | none => none

/-- A combo operand: `0` to `3`, `A`, `B`, `C`, or `#n` with n from 7 to 255 (R81). -/
def parseCombo : List Char → Option Byte
  | ['0'] => some 0
  | ['1'] => some 1
  | ['2'] => some 2
  | ['3'] => some 3
  | ['A'] => some 4
  | ['B'] => some 5
  | ['C'] => some 6
  | '#' :: n => (parseDecimal n).filter fun b => 7 ≤ b.toNat
  | _ => none

/-- A line without its comment and the spaces before it (R81). -/
def stripComment (line : List Char) : List Char :=
  ((line.takeWhile (· ≠ ';')).reverse.dropWhile (· = ' ')).reverse

/-- The pair behind `.pair`: an illegal opcode and any operand byte (R81, D24). -/
def parsePair (text : List Char) : Option (Byte × Byte) :=
  match parseDecimal (text.takeWhile (· ≠ ',')), text.dropWhile (· ≠ ',') with
  | some opc, ',' :: rest => if 8 ≤ opc.toNat then (parseDecimal rest).map fun opd => (opc, opd) else none
  | _, _ => none

/-- The assembler: one line to the two bytes of the instruction (R81). -/
def assemble (line : List Char) : Option (Byte × Byte) :=
  match stripComment line with
  | 'a' :: 'd' :: 'v' :: ' ' :: o => (parseCombo o).map fun opd => (0, opd)
  | 'b' :: 'x' :: 'l' :: ' ' :: o => (parseDecimal o).map fun opd => (1, opd)
  | 'b' :: 's' :: 't' :: ' ' :: o => (parseCombo o).map fun opd => (2, opd)
  | 'j' :: 'n' :: 'z' :: ' ' :: o => (parseDecimal o).map fun opd => (3, opd)
  | ['b', 'x', 'c'] => some (4, 0)
  | 'b' :: 'x' :: 'c' :: ' ' :: o => (parseDecimal o).map fun opd => (4, opd)
  | 'o' :: 'u' :: 't' :: ' ' :: o => (parseCombo o).map fun opd => (5, opd)
  | 'b' :: 'd' :: 'v' :: ' ' :: o => (parseCombo o).map fun opd => (6, opd)
  | 'c' :: 'd' :: 'v' :: ' ' :: o => (parseCombo o).map fun opd => (7, opd)
  | '.' :: 'p' :: 'a' :: 'i' :: 'r' :: ' ' :: pair => parsePair pair
  | _ => none

/-- The bytes of a program in address order, as decimal numbers separated by commas (R82). -/
def programText : List Byte → List Char
  | [] => []
  | [b] => decimal b
  | b :: rest => decimal b ++ ',' :: programText rest

end Sys2Proof.Machine
end

