-- ==== Sys2Proof/Safety.lean ====
section
/-! DEFINITION. What the statements speak of: the bounds the spec says every reachable state keeps, the value a combo
operand byte stands for, and what a run depends on. -/

namespace Sys2Proof.Machine

/-! ### The invariant of the machine, part by part -/

/-- The OPEN parameters meet their constraints (R3). -/
abbrev State.ParamsOk (s : State) : Prop := s.params.valid

/-- PLEN holds 0 to PROG_CAP (R28, R34). -/
abbrev State.PlenOk (s : State) : Prop := s.plen.toNat ≤ Config.progCap

/-- IP is at most max(PROG_CAP, 255) always (R34), and at most max(PLEN, 255) during a run (R25). -/
abbrev State.IpOk (s : State) : Prop :=
  s.ip.toNat ≤ max Config.progCap 255 ∧ (s.runState = .running → s.ip.toNat ≤ max s.plen.toNat 255)

/-- TLEN is at most TAPE_CAP and STEPS at most STEP_LIMIT (R34, R162); each entry was emitted by one completed
instruction (R155). -/
abbrev State.CountersOk (s : State) : Prop :=
  s.tlen ≤ s.params.tapeCap ∧ s.tlen ≤ s.steps ∧ s.steps ≤ s.params.stepLimit

/-- CAUSE is a nonzero code of R151 when STATE is FAULTED, and 0 otherwise (R33). -/
abbrev State.CauseOk (s : State) : Prop :=
  (s.runState = .faulted → 1 ≤ s.cause.toNat ∧ s.cause.toNat ≤ 4) ∧ (s.runState ≠ .faulted → s.cause = 0)

/-- PMEM is in canonical form and lists only addresses it has (R28, R50). -/
abbrev State.PmemOk (s : State) : Prop := Memory.wf s.pmem ∧ Memory.below s.pmem Config.progCap

/-- TAPE is in canonical form, lists only entries it has (R50), and every entry below TLEN was written (R26). -/
abbrev State.TapeOk (s : State) : Prop :=
  Memory.wf s.tape ∧ Memory.below s.tape s.params.tapeCap ∧ ∀ i < s.tlen, (Memory.read s.tape i).isSome = true

/-- The invariant: it holds at reset, and every step keeps it. -/
abbrev State.Inv (s : State) : Prop :=
  s.ParamsOk ∧ s.PlenOk ∧ s.IpOk ∧ s.CountersOk ∧ s.CauseOk ∧ s.PmemOk ∧ s.TapeOk

/-! ### Words of the statements -/

/-- `n` steps of the machine the host runs, stopping at the first fault or refusal. -/
def run (n : Nat) (s : State) : Result := Host.Core.run core n s

/-- The number a legal combo operand byte denotes: 0 to 3 themselves, 4, 5, 6 the registers A, B, C (R74). -/
def comboValue (s : State) (opd : Byte) : Nat :=
  if opd = 4 then s.a.toNat else if opd = 5 then s.b.toNat else if opd = 6 then s.c.toNat else opd.toNat

/-- The five instructions with a combo operand, over an operand byte (R73). -/
def comboInstrs (opd : Byte) : List Instr :=
  [.adv (Combo.ofByte opd), .bst (Combo.ofByte opd), .out (Combo.ofByte opd), .bdv (Combo.ofByte opd),
    .cdv (Combo.ofByte opd)]

/-- The block is about to take a step: a run is in progress, the CAUSE register is NONE as R33 says it is then, and the
host has no move left to make. -/
abbrev State.Ready (s : State) : Prop := s.runState = .running ∧ s.cause = 0 ∧ s.hostMoves = []

/-- Everything but A, B, C, IP, STEPS, TAPE and TLEN is as before: what no completed instruction writes (R21). -/
def State.SameOutsideInstructions (s t : State) : Prop :=
  t.plen = s.plen ∧ t.initA = s.initA ∧ t.initB = s.initB ∧ t.initC = s.initC ∧ t.params = s.params ∧
    t.resets = s.resets ∧ t.draws = s.draws ∧ t.hostMoves = s.hostMoves ∧ t.reply = s.reply ∧
    ∀ i, t.pmemByte i = s.pmemByte i

/-- Two states that give a run the same PMEM, PLEN, INIT_A, INIT_B, INIT_C, STEP_LIMIT and TAPE_CAP (R100). -/
def State.SameRunInputs (s t : State) : Prop :=
  t.plen = s.plen ∧ t.initA = s.initA ∧ t.initB = s.initB ∧ t.initC = s.initC ∧
    t.params.stepLimit = s.params.stepLimit ∧ t.params.tapeCap = s.params.tapeCap ∧
    ∀ i < s.plen.toNat, t.pmemByte i = s.pmemByte i

end Sys2Proof.Machine
end

