-- ==== Sys2Proof/Certificates/Slice0/Obligations.lean ====
section
/-! DEFINITION. The statements for the provers. Each docstring names the rules of spec/ it formalises; where a clause is
the model's choice it names the log entry. -/

open Sys2Proof Sys2Proof.Machine

/-! ### Encoding -/

/-- R70 to R77: decoding the two bytes of a well-formed instruction gives it back. -/
def Obligations.DecodeOfEncodeIsIdentity : Prop :=
  ∀ i : Instr, i.wf → decode (encode i).1 (encode i).2 = .ok i

/-- R70 to R77: a decoded instruction is well formed and stands for exactly the bytes it was decoded from. -/
def Obligations.EncodeOfDecodeIsIdentity : Prop :=
  ∀ (opc opd : Byte) (i : Instr), decode opc opd = .ok i → i.wf ∧ encode i = (opc, opd)

/-- R72, R75: the opcode is the whole byte; 0 to 7 select the eight instructions, 8 to 255 are illegal, and the step
that decodes one raises InvalidOpcode. -/
def Obligations.OpcodeByteSelectsTheInstruction : Prop :=
  ∀ opc opd : Byte,
    (opc = 0 → ∃ o, decode opc opd = .ok (.adv o)) ∧ (opc = 1 → decode opc opd = .ok (.bxl opd)) ∧
      (opc = 2 → ∃ o, decode opc opd = .ok (.bst o)) ∧ (opc = 3 → decode opc opd = .ok (.jnz opd)) ∧
      (opc = 4 → decode opc opd = .ok (.bxc opd)) ∧ (opc = 5 → ∃ o, decode opc opd = .ok (.out o)) ∧
      (opc = 6 → ∃ o, decode opc opd = .ok (.bdv o)) ∧ (opc = 7 → ∃ o, decode opc opd = .ok (.cdv o)) ∧
      (8 ≤ opc.toNat →
        decode opc opd = .error (.invalidOpcode opc) ∧
          ∀ s : State, s.Ready → s.plen.toNat ≤ 256 → s.ip.toNat + 1 < s.plen.toNat →
            s.steps ≠ s.params.stepLimit → s.pmemByte s.ip.toNat = opc →
            step s = .next { s with runState := .faulted, cause := 1 })

/-- R70, R74, R75: one word of each instruction, written out from the opcode table and from 95_test_vectors.md. -/
def Obligations.WrittenOutPairsDecode : Prop :=
  decode 0 1 = .ok (.adv (.lit 1)) ∧ decode 0 5 = .ok (.adv (.reg .B)) ∧ decode 1 255 = .ok (.bxl 255) ∧
    decode 2 4 = .ok (.bst (.reg .A)) ∧ decode 3 4 = .ok (.jnz 4) ∧ decode 4 7 = .ok (.bxc 7) ∧
    decode 5 3 = .ok (.out (.lit 3)) ∧ decode 6 2 = .ok (.bdv (.lit 2)) ∧ decode 7 6 = .ok (.cdv (.reg .C)) ∧
    decode 0 200 = .ok (.adv (.invalid 200)) ∧ decode 8 0 = .error (.invalidOpcode 8)

/-- R71: the opcode table's number of a pair is OPC * 256 + OPD, a row matches it under the mask 0xFF00 exactly when its
opcode byte is the row's, and the decoder reads from it what it reads from the two bytes. -/
def Obligations.TableWordsNumberThePairs : Prop :=
  ∀ opc opd : Byte,
    (tableWord opc opd).toNat = opc.toNat * 256 + opd.toNat ∧
      (∀ row : Byte, tableWord opc opd &&& 0xFF00 = tableWord row 0 ↔ opc = row) ∧
      decodeTableWord 16 (tableWord opc opd).toNat = (decode opc opd).toOption

/-- R81 and D24 (92_eei_decisions.md): every pair of bytes has a text, and assembling that text gives the pair back. For
OPC 8 to 255 the text is `.pair OPC,OPD`, which R81 gives to the disassembler; that the assembler reads it too is DEDUCED
from D24, whose syntax is to write every pair (notes/assumptions/16.md). The spelling of decimals and of `bxc` is the
model's choice (the same log entry). -/
def Obligations.AssembleOfDisassembleIsIdentity : Prop :=
  ∀ opc opd : Byte, assemble (disassemble opc opd) = some (opc, opd)

/-! ### Operands -/

/-- R74: what a combo operand byte denotes; 7 to 255 raise InvalidOperand in each of the five combo instructions. -/
def Obligations.ComboOperandDenotesItsTableValue : Prop :=
  ∀ (s : State) (opd : Byte),
    (opd.toNat ≤ 3 → ∃ v, resolveCombo (Combo.ofByte opd) s = some v ∧ v.toNat = opd.toNat) ∧
      (opd = 4 → resolveCombo (Combo.ofByte opd) s = some s.a) ∧
      (opd = 5 → resolveCombo (Combo.ofByte opd) s = some s.b) ∧
      (opd = 6 → resolveCombo (Combo.ofByte opd) s = some s.c) ∧
      (7 ≤ opd.toNat →
        ∀ i ∈ comboInstrs opd, exec i s = .next { s with runState := .faulted, cause := 2 })

/-- R110: the right shift is floor division by a power of two for every amount, and 0 from the register width on. -/
def Obligations.ShiftRightIsFloorDivision : Prop :=
  ∀ v n : Word,
    (shiftRight v n).toNat = v.toNat / 2 ^ n.toNat ∧ (64 ≤ n.toNat → shiftRight v n = 0)

/-! ### The eight instructions: what each does, that it completes, and what it leaves alone -/

/-- R111: adv. -/
def Obligations.AdvShiftsAIntoA : Prop :=
  ∀ (s : State) (opd : Byte),
    decode 0 opd = .ok (.adv (Combo.ofByte opd)) ∧
      (opd.toNat ≤ 6 →
        exec (.adv (Combo.ofByte opd)) s =
          .next { s with
            a := BitVec.ofNat 64 (s.a.toNat / 2 ^ comboValue s opd), ip := s.ip + 2, steps := s.steps + 1 }) ∧
      (7 ≤ opd.toNat → exec (.adv (Combo.ofByte opd)) s = .next { s with runState := .faulted, cause := 2 }) ∧
      (opd.toNat ≤ 6 → comboValue s opd = 0 → ∃ t, exec (.adv (Combo.ofByte opd)) s = .next t ∧ t.a = s.a) ∧
      (opd.toNat ≤ 6 → 64 ≤ comboValue s opd → ∃ t, exec (.adv (Combo.ofByte opd)) s = .next t ∧ t.a = 0) ∧
      (opd = 4 → ∃ t, exec (.adv (Combo.ofByte opd)) s = .next t ∧ t.a = 0)

/-- R112: bdv. -/
def Obligations.BdvShiftsAIntoB : Prop :=
  ∀ (s : State) (opd : Byte),
    decode 6 opd = .ok (.bdv (Combo.ofByte opd)) ∧
      (opd.toNat ≤ 6 →
        exec (.bdv (Combo.ofByte opd)) s =
          .next { s with
            b := BitVec.ofNat 64 (s.a.toNat / 2 ^ comboValue s opd), ip := s.ip + 2, steps := s.steps + 1 }) ∧
      (7 ≤ opd.toNat → exec (.bdv (Combo.ofByte opd)) s = .next { s with runState := .faulted, cause := 2 }) ∧
      (opd.toNat ≤ 6 → comboValue s opd = 0 → ∃ t, exec (.bdv (Combo.ofByte opd)) s = .next t ∧ t.b = s.a) ∧
      (opd.toNat ≤ 6 → 64 ≤ comboValue s opd → ∃ t, exec (.bdv (Combo.ofByte opd)) s = .next t ∧ t.b = 0) ∧
      (opd = 4 → ∃ t, exec (.bdv (Combo.ofByte opd)) s = .next t ∧ t.b = 0)

/-- R113: cdv. -/
def Obligations.CdvShiftsAIntoC : Prop :=
  ∀ (s : State) (opd : Byte),
    decode 7 opd = .ok (.cdv (Combo.ofByte opd)) ∧
      (opd.toNat ≤ 6 →
        exec (.cdv (Combo.ofByte opd)) s =
          .next { s with
            c := BitVec.ofNat 64 (s.a.toNat / 2 ^ comboValue s opd), ip := s.ip + 2, steps := s.steps + 1 }) ∧
      (7 ≤ opd.toNat → exec (.cdv (Combo.ofByte opd)) s = .next { s with runState := .faulted, cause := 2 }) ∧
      (opd.toNat ≤ 6 → comboValue s opd = 0 → ∃ t, exec (.cdv (Combo.ofByte opd)) s = .next t ∧ t.c = s.a) ∧
      (opd.toNat ≤ 6 → 64 ≤ comboValue s opd → ∃ t, exec (.cdv (Combo.ofByte opd)) s = .next t ∧ t.c = 0) ∧
      (opd = 4 → ∃ t, exec (.cdv (Combo.ofByte opd)) s = .next t ∧ t.c = 0)

/-- R120: bxl, for every operand byte. -/
def Obligations.BxlXorsBWithTheLiteral : Prop :=
  ∀ (s : State) (k : Byte),
    decode 1 k = .ok (.bxl k) ∧
      ∃ t, exec (.bxl k) s = .next t ∧ t = { s with b := t.b, ip := s.ip + 2, steps := s.steps + 1 } ∧
        t.b.toNat = s.b.toNat ^^^ k.toNat ∧ t.b.toNat / 256 = s.b.toNat / 256 ∧ (k = 0 → t.b = s.b) ∧
        ∃ u, exec (.bxl k) t = .next u ∧ u.b = s.b

/-- R121: bst. -/
def Obligations.BstTakesTheComboModuloEight : Prop :=
  ∀ (s : State) (opd : Byte),
    decode 2 opd = .ok (.bst (Combo.ofByte opd)) ∧
      (opd.toNat ≤ 6 →
        exec (.bst (Combo.ofByte opd)) s =
          .next { s with
            b := BitVec.ofNat 64 (comboValue s opd % 8), ip := s.ip + 2, steps := s.steps + 1 }) ∧
      (7 ≤ opd.toNat → exec (.bst (Combo.ofByte opd)) s = .next { s with runState := .faulted, cause := 2 }) ∧
      (opd.toNat ≤ 6 → ∃ t, exec (.bst (Combo.ofByte opd)) s = .next t ∧ t.b.toNat ≤ 7)

/-- R122, R77: bxc, for every operand byte, which is ignored. -/
def Obligations.BxcXorsBWithCAndIgnoresItsOperand : Prop :=
  ∀ (s : State) (x : Byte),
    decode 4 x = .ok (.bxc x) ∧
      ∃ t, exec (.bxc x) s = .next t ∧ t = { s with b := t.b, ip := s.ip + 2, steps := s.steps + 1 } ∧
        t.b.toNat = s.b.toNat ^^^ s.c.toNat ∧ (s.c = 0 → t.b = s.b) ∧ (s.b = s.c → t.b = 0) ∧
        ∀ y : Byte, exec (.bxc y) s = .next t

/-- R130: jnz, for every operand byte, taken and not taken. -/
def Obligations.JnzJumpsExactlyWhenAIsNotZero : Prop :=
  ∀ (s : State) (k : Byte),
    decode 3 k = .ok (.jnz k) ∧
      (s.a ≠ 0 →
        ∃ t, exec (.jnz k) s = .next t ∧ t = { s with ip := t.ip, steps := s.steps + 1 } ∧
          t.ip.toNat = k.toNat) ∧
      (s.a = 0 → exec (.jnz k) s = .next { s with ip := s.ip + 2, steps := s.steps + 1 }) ∧
      (k.setWidth 16 = s.ip + 2 → exec (.jnz k) s = .next { s with ip := s.ip + 2, steps := s.steps + 1 }) ∧
      (s.a ≠ 0 → k.setWidth 16 = s.ip → exec (.jnz k) s = .next { s with steps := s.steps + 1 })

/-- R140: out. The digit is stored at the index TLEN holds, TAPE is unchanged elsewhere; an invalid operand is reported
before a full tape. -/
def Obligations.OutAppendsTheComboModuloEight : Prop :=
  ∀ (s : State) (opd : Byte),
    decode 5 opd = .ok (.out (Combo.ofByte opd)) ∧
      (opd.toNat ≤ 6 → s.tlen < s.params.tapeCap →
        ∃ t, exec (.out (Combo.ofByte opd)) s = .next t ∧
          t = { s with tape := t.tape, tlen := s.tlen + 1, ip := s.ip + 2, steps := s.steps + 1 } ∧
          (t.tapeEntry s.tlen).toNat = comboValue s opd % 8 ∧ ∀ i, i ≠ s.tlen → t.tapeEntry i = s.tapeEntry i) ∧
      (7 ≤ opd.toNat → exec (.out (Combo.ofByte opd)) s = .next { s with runState := .faulted, cause := 2 }) ∧
      (opd.toNat ≤ 6 → s.tlen = s.params.tapeCap →
        exec (.out (Combo.ofByte opd)) s = .next { s with runState := .faulted, cause := 4 })

/-- R131, R91: a taken jnz to an address at or past PLEN - 1 is not checked; the next step halts the run. -/
def Obligations.JumpPastTheEndHaltsAtTheNextStep : Prop :=
  ∀ (s : State) (k : Byte), s.Ready → s.a ≠ 0 →
    ∃ t, exec (.jnz k) s = .next t ∧ t.ip.toNat = k.toNat ∧ t.Ready ∧
      (s.plen.toNat ≤ k.toNat + 1 → step t = .next { t with runState := .halted })

/-- R95: the sequential advance, of every instruction but a taken jnz. -/
def Obligations.EveryInstructionButATakenJnzAdvancesByTwo : Prop :=
  ∀ (i : Instr) (s t : State), s.Ready → exec i s = .next t → t.runState = .running →
    ((∀ k, i = .jnz k → s.a = 0) → t.ip = s.ip + 2) ∧
      ∀ k, i = .jnz k → s.a ≠ 0 → t.ip = k.setWidth 16

/-- R21, R22: which register each instruction may change: only adv writes A, only bxl, bst, bxc and bdv write B, only cdv
writes C, only out writes the tape, and no instruction writes any other state but IP and STEPS. -/
def Obligations.OnlyTheNamedInstructionsWrite : Prop :=
  ∀ (i : Instr) (s t : State), exec i s = .next t →
    (t.a ≠ s.a → ∃ o, i = .adv o) ∧
      (t.b ≠ s.b → (∃ k, i = .bxl k) ∨ (∃ o, i = .bst o) ∨ (∃ x, i = .bxc x) ∨ ∃ o, i = .bdv o) ∧
      (t.c ≠ s.c → ∃ o, i = .cdv o) ∧
      ((t.tlen ≠ s.tlen ∨ ∃ j, t.tapeEntry j ≠ s.tapeEntry j) → ∃ o, i = .out o) ∧ s.SameOutsideInstructions t

/-- The frame of the seven register instructions, every operand form: memory, tape and every other register stand, and
STATE and CAUSE change only by InvalidOperand (R21, R30, R150). -/
def Obligations.RegisterInstructionsFrame : Prop :=
  ∀ (i : Instr) (s t : State), (∀ o, i ≠ .out o) → exec i s = .next t →
    s.SameOutsideInstructions t ∧ t.tlen = s.tlen ∧ (∀ j, t.tapeEntry j = s.tapeEntry j) ∧
      ((∀ o, i ≠ .adv o) → t.a = s.a) ∧ ((∀ o, i ≠ .cdv o) → t.c = s.c) ∧
      ((∃ o, i = .adv o) ∨ (∃ o, i = .cdv o) ∨ (∃ k, i = .jnz k) → t.b = s.b) ∧
      ((t.runState = s.runState ∧ t.cause = s.cause) ∨ t = { s with runState := .faulted, cause := 2 })

/-- The frame of out: no register, no byte of PMEM and no entry of the tape but the one at the index TLEN held; STATE and
CAUSE change only by InvalidOperand or TapeOverflow, which store nothing (R140, R150). -/
def Obligations.OutFrame : Prop :=
  ∀ (o : Combo) (s t : State), exec (.out o) s = .next t →
    s.SameOutsideInstructions t ∧ t.a = s.a ∧ t.b = s.b ∧ t.c = s.c ∧
      (∀ j, j ≠ s.tlen → t.tapeEntry j = s.tapeEntry j) ∧
      ((t.runState = s.runState ∧ t.cause = s.cause ∧ t.tlen = s.tlen + 1) ∨
        t = { s with runState := .faulted, cause := 2 } ∨ t = { s with runState := .faulted, cause := 4 })

/-! ### One step of the block -/

/-- R90, R93, R94, R54: when the bytes at IP and IP + 1, at any IP, decode to an instruction, the step is exec of it; the
advance and the count of STEPS are part of exec (notes/assumptions/7.md). -/
def Obligations.StepRunsTheDecodedInstruction : Prop :=
  ∀ (s : State) (i : Instr), s.Ready → s.plen.toNat ≤ 256 → s.ip.toNat + 1 < s.plen.toNat →
    s.steps ≠ s.params.stepLimit → decode (s.pmemByte s.ip.toNat) (s.pmemByte (s.ip.toNat + 1)) = .ok i →
    i.wf ∧ step s = exec i s

/-- R91: the halt test sets STATE to HALTED and changes nothing else, for every PLEN, IP and STEPS. -/
def Obligations.HaltTestEndsTheRun : Prop :=
  ∀ s : State, s.Ready → s.plen.toNat ≤ s.ip.toNat + 1 → step s = .next { s with runState := .halted }

/-- R92: the step cap, after the halt test and before the fetch, whatever PMEM holds; a run that has completed STEP_LIMIT
instructions still halts without error. -/
def Obligations.StepCapRaisesExecutionLimitExceeded : Prop :=
  ∀ s : State, s.Ready → s.steps = s.params.stepLimit →
    (s.ip.toNat + 1 < s.plen.toNat → step s = .next { s with runState := .faulted, cause := 3 }) ∧
      (s.plen.toNat ≤ s.ip.toNat + 1 → step s = .next { s with runState := .halted })

/-- R153: InvalidOperand comes from the five combo instructions with an operand byte of 7 or more, and from nothing
else. -/
def Obligations.InvalidOperandOnlyFromComboInstructions : Prop :=
  ∀ (s : State) (opd : Byte),
    (7 ≤ opd.toNat → ∀ i ∈ comboInstrs opd, exec i s = .next { s with runState := .faulted, cause := 2 }) ∧
      (opd.toNat ≤ 6 → ∀ i ∈ comboInstrs opd, ∀ t, exec i s = .next t → s.Ready → t.cause ≠ 2) ∧
      ∀ i ∈ [Instr.bxl opd, Instr.jnz opd, Instr.bxc opd],
        ∃ t, exec i s = .next t ∧ t.runState = s.runState ∧ t.cause = s.cause

/-- R155: TapeOverflow is raised by out with a valid operand and a full tape, and cannot occur when TAPE_CAP is at least
STEP_LIMIT: every out before the cap then finds room. -/
def Obligations.TapeOverflowNeedsASmallTape : Prop :=
  ∀ (s : State) (opd : Byte), s.Inv → s.Ready → opd.toNat ≤ 6 →
    (s.tlen = s.params.tapeCap →
      exec (.out (Combo.ofByte opd)) s = .next { s with runState := .faulted, cause := 4 }) ∧
      (s.params.stepLimit ≤ s.params.tapeCap →
        (∀ t, step s = .next t → t.cause ≠ 4) ∧
          (s.steps < s.params.stepLimit →
            ∃ t, exec (.out (Combo.ofByte opd)) s = .next t ∧ t.runState = .running ∧ t.tlen = s.tlen + 1))

/-- R157: the order of the tests of one step; the step reports the first that applies, and otherwise one instruction
completes. -/
def Obligations.StepReportsTheFirstEventThatApplies : Prop :=
  ∀ (s : State) (opc opd : Byte), s.Inv → s.Ready → opc = s.pmemByte s.ip.toNat →
    opd = s.pmemByte (s.ip.toNat + 1) →
    if s.plen.toNat ≤ s.ip.toNat + 1 then step s = .next { s with runState := .halted }
    else if s.steps = s.params.stepLimit then step s = .next { s with runState := .faulted, cause := 3 }
    else if 8 ≤ opc.toNat then step s = .next { s with runState := .faulted, cause := 1 }
    else if (opc = 0 ∨ opc = 2 ∨ opc = 5 ∨ opc = 6 ∨ opc = 7) ∧ 7 ≤ opd.toNat then
      step s = .next { s with runState := .faulted, cause := 2 }
    else if opc = 5 ∧ s.tlen = s.params.tapeCap then step s = .next { s with runState := .faulted, cause := 4 }
    else ∃ t, step s = .next t ∧ t.runState = .running ∧ t.cause = 0 ∧ t.steps = s.steps + 1

/-- R150: a fault sets STATE and CAUSE and changes nothing else, and the block takes no further step. -/
def Obligations.FaultsArePreciseAndFinal : Prop :=
  ∀ s t : State, s.Inv → s.Ready → step s = .next t → t.runState = .faulted →
    t = { s with runState := .faulted, cause := t.cause } ∧ 1 ≤ t.cause.toNat ∧ t.cause.toNat ≤ 4 ∧ step t = .next t

/-- R96: STEPS counts the instructions that complete; a step that halts or faults leaves it. -/
def Obligations.StepsCountsCompletedInstructions : Prop :=
  ∀ s t : State, s.Ready → step s = .next t →
    (t.runState = .running → t.steps = s.steps + 1) ∧ (t.runState ≠ .running → t.steps = s.steps)

/-- R25: IP never wraps around: at every step of a run it is at most max(PLEN, 255), and IP + 2 is representable where
an instruction can execute. -/
def Obligations.IpNeverWrapsAround : Prop :=
  ∀ s t : State, s.Inv → s.Ready → step s = .next t →
    s.ip.toNat ≤ max s.plen.toNat 255 ∧ t.ip.toNat ≤ max t.plen.toNat 255 ∧
      (s.ip.toNat + 1 < s.plen.toNat → (s.ip + 2).toNat = s.ip.toNat + 2)

/-- R166, R90: outside RUNNING the block takes no step and keeps all of its state; where the host only waits, the machine
stands still (notes/assumptions/6.md). -/
def Obligations.NoStepOutsideRunning : Prop :=
  ∀ s : State, s.runState ≠ .running → s.cause.toNat ≤ 4 →
    (s.hostMoves = [] → step s = .next s) ∧
      ∀ rest, s.hostMoves = .wait :: rest → step s = .next { s with hostMoves := rest }

/-- R58, R40: a host that waits does not change what the block's step does (the model's list of host moves,
notes/assumptions/4.md). -/
def Obligations.WaitingHostDoesNotChangeTheStep : Prop :=
  ∀ (s t : State) (rest : List HostMove), s.hostMoves = [] → step s = .next t →
    step { s with hostMoves := .wait :: rest } = .next { t with hostMoves := rest }

/-! ### The host -/

/-- R180, R181: RESET in any state, RUNNING among them, sets every register, STATUS and DONE to their reset values, records
no fault (CAUSE is 0 after it), and the block then takes no step; the machine's own reset state holds the same values. -/
def Obligations.ResetSetsEveryRegister : Prop :=
  (∀ (s : State) (rest : List HostMove), s.cause.toNat ≤ 4 → s.hostMoves = .reset :: rest →
    ∃ t, step s = .next t ∧ t.a = 0 ∧ t.b = 0 ∧ t.c = 0 ∧ t.initA = 0 ∧ t.initB = 0 ∧ t.initC = 0 ∧ t.ip = 0 ∧
      t.plen = 0 ∧ t.tlen = 0 ∧ t.runState = .idle ∧ t.cause = 0 ∧ t.steps = 0 ∧ t.status = 0 ∧ t.done = false ∧
      (rest = [] → step t = .next t)) ∧
    ∃ t, State.reset = t ∧ t.a = 0 ∧ t.b = 0 ∧ t.c = 0 ∧ t.initA = 0 ∧ t.initB = 0 ∧ t.initC = 0 ∧ t.ip = 0 ∧
      t.plen = 0 ∧ t.tlen = 0 ∧ t.runState = .idle ∧ t.cause = 0 ∧ t.steps = 0 ∧ t.status = 0 ∧ t.done = false ∧
      step t = .next t

/-- After RESET every byte of PMEM and every entry of TAPE holds a free value, a new one for each RESET: the model's form
of the unspecified contents (notes/assumptions/2.md, 3.md), about which nothing can be proved. -/
def Obligations.ResetLeavesMemoriesFree : Prop :=
  ∀ (s t : State) (rest : List HostMove), s.hostMoves = .reset :: rest → step s = .next t →
    t.resets = s.resets + 1 ∧
      ∀ i, t.pmemByte i = Config.pmemAtReset (s.resets + 1) i ∧ t.tapeEntry i = Config.tapeAtReset (s.resets + 1) i

/-- R182: START begins a fresh run in one atomic action, and is ignored while RUNNING. That the entries of TAPE stand over
START is DEDUCED from R182's list of what START writes (notes/assumptions/3.md): with TLEN at 0 the spec defines no entry of
TAPE (R26). -/
def Obligations.StartBeginsAFreshRun : Prop :=
  ∀ (s : State) (rest : List HostMove), s.cause.toNat ≤ 4 → s.hostMoves = .start :: rest →
    (s.runState ≠ .running →
      step s =
        .next { s with
          a := s.initA, b := s.initB, c := s.initC, ip := 0, tlen := 0, steps := 0, cause := 0,
          runState := .running, hostMoves := rest, reply := none }) ∧
      (s.runState = .running → step s = .next { s with hostMoves := rest, reply := none })

/-- R35: the effect of a host register write, for every number and value. -/
def Obligations.HostRegisterWrite : Prop :=
  ∀ (s : State) (n : BitVec 4) (v : Nat) (rest : List HostMove), s.cause.toNat ≤ 4 →
    s.hostMoves = .writeRegister n v :: rest →
    ∃ u, u = { s with hostMoves := rest, reply := none } ∧
      (s.runState = .running → step s = .next u) ∧
      (s.runState ≠ .running →
        (n = 0 → step s = .next { u with initA := BitVec.ofNat 64 v }) ∧
          (n = 1 → step s = .next { u with initB := BitVec.ofNat 64 v }) ∧
          (n = 2 → step s = .next { u with initC := BitVec.ofNat 64 v }) ∧
          (n = 7 → v ≤ 256 → ∃ t, step s = .next t ∧ t = { u with plen := t.plen } ∧ t.plen.toNat = v) ∧
          (n = 7 → 256 < v → step s = .next u) ∧
          (n ≠ 0 → n ≠ 1 → n ≠ 2 → n ≠ 7 → step s = .next u))

/-- R36: a host write of program memory, in the run states and at the addresses where it acts and where it is ignored, and
a host read, whose unspecified bytes are free values (notes/assumptions/5.md). -/
def Obligations.HostProgramMemoryAccess : Prop :=
  ∀ (s : State) (a : Nat) (b : Byte) (rest : List HostMove), s.cause.toNat ≤ 4 →
    (s.hostMoves = .writePmem a b :: rest →
      (s.runState ≠ .running → a < 256 →
        ∃ t, step s = .next t ∧ t = { s with pmem := t.pmem, hostMoves := rest, reply := none } ∧
          t.pmemByte a = b ∧ ∀ i, i ≠ a → t.pmemByte i = s.pmemByte i) ∧
        (s.runState = .running ∨ 256 ≤ a → step s = .next { s with hostMoves := rest, reply := none })) ∧
      (s.hostMoves = .readPmem a :: rest →
        (s.runState ≠ .running → a < 256 →
          step s = .next { s with hostMoves := rest, reply := some (s.pmemByte a).toNat }) ∧
          (s.runState = .running ∨ 256 ≤ a →
            ∃ v < 256, step s = .next { s with hostMoves := rest, reply := some v, draws := s.draws + 1 }))

/-- R37, R34: a host register read returns the register's value, or 0 for a reserved number, while no run is in progress;
during a run STATUS reads as it stands and every other read returns an unspecified value of the register's width. That a
reserved number 11 to 15 read during a run is such a read is DEDUCED (notes/assumptions/5.md): R37 says any other number
than STATUS, while R34 says that reserved numbers read 0; the statement gives that value no bound. -/
def Obligations.HostRegisterRead : Prop :=
  ∀ (s : State) (n : BitVec 4) (rest : List HostMove), s.cause.toNat ≤ 4 → s.hostMoves = .readRegister n :: rest →
    (s.runState ≠ .running →
      ∃ v, step s = .next { s with hostMoves := rest, reply := some v } ∧
        (n = 0 → v = s.initA.toNat) ∧ (n = 1 → v = s.initB.toNat) ∧ (n = 2 → v = s.initC.toNat) ∧
        (n = 3 → v = s.a.toNat) ∧ (n = 4 → v = s.b.toNat) ∧ (n = 5 → v = s.c.toNat) ∧ (n = 6 → v = s.ip.toNat) ∧
        (n = 7 → v = s.plen.toNat) ∧ (n = 8 → v = s.status.toNat) ∧ (n = 9 → v = s.steps) ∧ (n = 10 → v = s.tlen) ∧
        (11 ≤ n.toNat → v = 0)) ∧
      (s.runState = .running → n = 8 →
        step s = .next { s with hostMoves := rest, reply := some s.status.toNat } ∧ (s.cause = 0 → s.status = 1)) ∧
      (s.runState = .running → n ≠ 8 →
        ∃ v, step s = .next { s with hostMoves := rest, reply := some v, draws := s.draws + 1 } ∧
          (n.toNat ≤ 5 → v < 2 ^ 64) ∧ (n = 6 ∨ n = 7 → v < 2 ^ 16) ∧ (n = 9 → v < 2 ^ s.params.stepsW) ∧
          (n = 10 → v < 2 ^ s.params.tlenW))

/-- R38: a host tape read returns the entry below TLEN while no run is in progress, and an unspecified value from 0 to 7
at any other time or index (a free value, notes/assumptions/5.md). -/
def Obligations.HostTapeRead : Prop :=
  ∀ (s : State) (i : Nat) (rest : List HostMove), s.cause.toNat ≤ 4 → s.hostMoves = .readTape i :: rest →
    (s.runState ≠ .running → i < s.tlen →
      step s = .next { s with hostMoves := rest, reply := some (s.tapeEntry i).toNat }) ∧
      (s.runState = .running ∨ s.tlen ≤ i →
        ∃ v ≤ 7, step s = .next { s with hostMoves := rest, reply := some v, draws := s.draws + 1 })

/-- R33: the layout of STATUS, and the CAUSE each STATE shows. -/
def Obligations.StatusLayout : Prop :=
  ∀ s : State, s.Inv →
    s.status.toNat % 4 = s.runState.code.toNat ∧ s.status.toNat / 4 % 4 = 0 ∧
      s.status.toNat / 16 = s.cause.toNat ∧
      (s.runState = .idle → s.status = 0) ∧ (s.runState = .running → s.status = 1) ∧
      (s.runState = .halted → s.status = 2) ∧
      (s.runState = .faulted → s.status = 0x13 ∨ s.status = 0x23 ∨ s.status = 0x33 ∨ s.status = 0x43) ∧
      ∀ v, s.hostWriteRegister 8 v = s

/-- R39: DONE is 1 exactly when STATE is HALTED or FAULTED, which STATUS shows in its bit 1. -/
def Obligations.DoneExactlyWhenTheRunHasEnded : Prop :=
  ∀ s : State, (s.done = true ↔ s.runState = .halted ∨ s.runState = .faulted) ∧ s.done = s.status.getLsbD 1

/-- R22: the host cannot write A, B or C at any time: a host move other than START and RESET leaves them, and during a run
START leaves them too. -/
def Obligations.HostCannotWriteTheRegisterFile : Prop :=
  ∀ (s t : State) (move : HostMove) (rest : List HostMove), s.hostMoves = move :: rest → move ≠ .wait →
    move ≠ .reset → (move = .start → s.runState = .running) → step s = .next t →
    t.a = s.a ∧ t.b = s.b ∧ t.c = s.c

/-- R32: STATE changes only by START, by the halt test, by a fault and by RESET. -/
def Obligations.StateChangesOnlyAsTheTableSays : Prop :=
  ∀ s t : State, step s = .next t → t.runState ≠ s.runState →
    (s.runState ≠ .running ∧ t.runState = .running ∧ s.hostMoves.head? = some .start) ∨
      (s.runState = .running ∧ t.runState = .halted ∧ s.plen.toNat ≤ s.ip.toNat + 1 ∧
        (s.hostMoves = [] ∨ s.hostMoves.head? = some .wait)) ∨
      (s.runState = .running ∧ t.runState = .faulted ∧ t.cause ≠ 0 ∧
        (s.hostMoves = [] ∨ s.hostMoves.head? = some .wait)) ∨
      (t.runState = .idle ∧ s.hostMoves.head? = some .reset)

/-- R60, R28: program memory and PLEN do not change during a run, whatever the block and the host do short of RESET. -/
def Obligations.ProgramDoesNotChangeDuringARun : Prop :=
  ∀ s t : State, s.runState = .running → s.hostMoves.head? ≠ some .reset → step s = .next t →
    t.plen = s.plen ∧ ∀ a, t.pmemByte a = s.pmemByte a

/-- R27: the tape is append-only: no instruction writes an entry below TLEN, only out writes the tape, and after a run the
tape and TLEN stand until START or RESET. -/
def Obligations.TapeIsAppendOnly : Prop :=
  (∀ (i : Instr) (s t : State), exec i s = .next t →
    (∀ j < s.tlen, t.tapeEntry j = s.tapeEntry j) ∧ s.tlen ≤ t.tlen ∧
      ((t.tlen ≠ s.tlen ∨ ∃ j, t.tapeEntry j ≠ s.tapeEntry j) → ∃ o, i = .out o)) ∧
    ∀ s t : State, s.runState ≠ .running → s.hostMoves.head? ≠ some .start → s.hostMoves.head? ≠ some .reset →
      step s = .next t → t.tlen = s.tlen ∧ ∀ j, t.tapeEntry j = s.tapeEntry j

/-- R183: the block keeps the result of a run until the next START or RESET. -/
def Obligations.ResultIsKeptUntilStartOrReset : Prop :=
  ∀ s t : State, s.runState ≠ .running → s.hostMoves.head? ≠ some .start → s.hostMoves.head? ≠ some .reset →
    step s = .next t → t.result = s.result

/-- R184: the host's duties, in their order, from any state: afterwards a run is in progress on exactly the program and
the initial registers the host wrote. -/
def Obligations.LoadingSequenceStartsTheProgram : Prop :=
  ∀ (s : State) (program : List Byte) (a b c : Word), s.cause.toNat ≤ 4 → program.length ≤ 256 →
    s.hostMoves = runMoves program a b c →
    ∃ t : State, run (program.length + 6) s = .next t ∧ t.Ready ∧ t.program = program ∧ t.a = a ∧
      t.b = b ∧ t.c = c ∧ t.ip = 0 ∧ t.tlen = 0 ∧ t.steps = 0 ∧ t.params = s.params

/-! ### Invariant, progress, termination, determinism -/

/-- The invariant of Safety.lean holds at reset (R180; the parameters are notes/assumptions/1.md). -/
def Obligations.ResetMeetsTheInvariant : Prop :=
  State.reset.Inv

/-- Every step of the machine, of the block or of the host, keeps the invariant: R25 and R34 (IP, PLEN, TLEN, STEPS in
their legal values), R33 (CAUSE and STATE agree), R50 (PMEM and TAPE list only what they have, in canonical form), R26
(every entry below TLEN was written). -/
def Obligations.EveryStepKeepsTheInvariant : Prop :=
  ∀ s t : State, s.Inv → step s = .next t → t.Inv

/-- Under the invariant every state has a next state: no fault and no refusal of the model is reached
(93_implementation_defined.md: no behaviour is modelled as stuck). -/
def Obligations.EveryInvariantStateHasANextState : Prop :=
  ∀ s : State, s.Inv → ∃ t, step s = .next t

/-- R101: every run that START begins ends within STEP_LIMIT + 1 steps, HALTED or FAULTED; each step that does not end it
adds 1 to STEPS; a step with STEPS at STEP_LIMIT halts or faults. -/
def Obligations.EveryRunEndsWithinTheStepBound : Prop :=
  ∀ s : State, s.Inv → s.runState ≠ .running → s.hostMoves = [.start] →
    (∃ k ≤ s.params.stepLimit + 1, ∃ t : State, run (1 + k) s = .next t ∧
      (t.runState = .halted ∨ t.runState = .faulted)) ∧
      ∀ u t : State, u.Ready → step u = .next t →
        (t.runState = .running → t.steps = u.steps + 1) ∧
          (u.steps = u.params.stepLimit → t.runState = .halted ∨ t.runState = .faulted)

/-- R100: two runs from the same PMEM, PLEN, INIT registers, STEP_LIMIT and TAPE_CAP, whatever else differs between the two
machines, have the same result after every number of steps: the same STATE, CAUSE, tape, registers, IP and STEPS. -/
def Obligations.RunsFromTheSameInputsHaveTheSameResult : Prop :=
  ∀ (s t : State) (n : Nat), s.Inv → t.Inv → s.runState ≠ .running → t.runState ≠ .running →
    s.hostMoves = [.start] → t.hostMoves = [.start] → s.SameRunInputs t →
    ∃ u v : State, run (n + 1) s = .next u ∧ run (n + 1) t = .next v ∧
      v.result = u.result

/-! ### Where the model stops (states no run reaches) -/

/-- A CAUSE register holding a reserved code is refused (93_implementation_defined.md part 2; notes/assumptions/10.md). -/
def Obligations.ReservedCauseIsRefused : Prop :=
  ∀ s : State, 4 < s.cause.toNat → step s = .refused (.reservedCause s.cause)

/-- The model's own stops in states that break a bound: a fetch past the end of PMEM and an append past the end of TAPE
(the model's choice, notes/assumptions/8.md and 9.md). -/
def Obligations.OutOfBoundsStatesFault : Prop :=
  (∀ s : State, s.Ready → s.ip.toNat + 1 < s.plen.toNat → s.steps ≠ s.params.stepLimit →
    (256 ≤ s.ip.toNat → step s = .fault (.fetchOutsidePmem s.ip.toNat)) ∧
      (s.ip.toNat = 255 → step s = .fault (.fetchOutsidePmem 256))) ∧
    ∀ (s : State) (opd : Byte), opd.toNat ≤ 6 → s.params.tapeCap < s.tlen →
      exec (.out (Combo.ofByte opd)) s = .fault (.appendOutsideTape s.tlen)
end

