-- ==== Sys2Proof/Laws/State.lean ====
section
/-! SUPPORT. One lemma per field per update of the state, so that no later proof unfolds a record update. -/

namespace Sys2Proof.Machine

variable (s : State)

/-! ### writePmem -/

@[simp] theorem State.writePmem_a (x : Nat) (v : Byte) : (s.writePmem x v).a = s.a := rfl
@[simp] theorem State.writePmem_b (x : Nat) (v : Byte) : (s.writePmem x v).b = s.b := rfl
@[simp] theorem State.writePmem_c (x : Nat) (v : Byte) : (s.writePmem x v).c = s.c := rfl
@[simp] theorem State.writePmem_ip (x : Nat) (v : Byte) : (s.writePmem x v).ip = s.ip := rfl
@[simp] theorem State.writePmem_plen (x : Nat) (v : Byte) : (s.writePmem x v).plen = s.plen := rfl
@[simp] theorem State.writePmem_pmem (x : Nat) (v : Byte) : (s.writePmem x v).pmem = Memory.write s.pmem x v := rfl
@[simp] theorem State.writePmem_tape (x : Nat) (v : Byte) : (s.writePmem x v).tape = s.tape := rfl
@[simp] theorem State.writePmem_tlen (x : Nat) (v : Byte) : (s.writePmem x v).tlen = s.tlen := rfl
@[simp] theorem State.writePmem_initA (x : Nat) (v : Byte) : (s.writePmem x v).initA = s.initA := rfl
@[simp] theorem State.writePmem_initB (x : Nat) (v : Byte) : (s.writePmem x v).initB = s.initB := rfl
@[simp] theorem State.writePmem_initC (x : Nat) (v : Byte) : (s.writePmem x v).initC = s.initC := rfl
@[simp] theorem State.writePmem_runState (x : Nat) (v : Byte) : (s.writePmem x v).runState = s.runState := rfl
@[simp] theorem State.writePmem_cause (x : Nat) (v : Byte) : (s.writePmem x v).cause = s.cause := rfl
@[simp] theorem State.writePmem_steps (x : Nat) (v : Byte) : (s.writePmem x v).steps = s.steps := rfl
@[simp] theorem State.writePmem_params (x : Nat) (v : Byte) : (s.writePmem x v).params = s.params := rfl
@[simp] theorem State.writePmem_resets (x : Nat) (v : Byte) : (s.writePmem x v).resets = s.resets := rfl
@[simp] theorem State.writePmem_draws (x : Nat) (v : Byte) : (s.writePmem x v).draws = s.draws := rfl
@[simp] theorem State.writePmem_hostMoves (x : Nat) (v : Byte) : (s.writePmem x v).hostMoves = s.hostMoves := rfl
@[simp] theorem State.writePmem_reply (x : Nat) (v : Byte) : (s.writePmem x v).reply = s.reply := rfl

/-! ### tapeAppend -/

@[simp] theorem State.tapeAppend_a (v : Digit) : (s.tapeAppend v).a = s.a := rfl
@[simp] theorem State.tapeAppend_b (v : Digit) : (s.tapeAppend v).b = s.b := rfl
@[simp] theorem State.tapeAppend_c (v : Digit) : (s.tapeAppend v).c = s.c := rfl
@[simp] theorem State.tapeAppend_ip (v : Digit) : (s.tapeAppend v).ip = s.ip := rfl
@[simp] theorem State.tapeAppend_plen (v : Digit) : (s.tapeAppend v).plen = s.plen := rfl
@[simp] theorem State.tapeAppend_pmem (v : Digit) : (s.tapeAppend v).pmem = s.pmem := rfl
@[simp] theorem State.tapeAppend_tape (v : Digit) : (s.tapeAppend v).tape = Memory.write s.tape s.tlen v := rfl
@[simp] theorem State.tapeAppend_tlen (v : Digit) : (s.tapeAppend v).tlen = s.tlen + 1 := rfl
@[simp] theorem State.tapeAppend_initA (v : Digit) : (s.tapeAppend v).initA = s.initA := rfl
@[simp] theorem State.tapeAppend_initB (v : Digit) : (s.tapeAppend v).initB = s.initB := rfl
@[simp] theorem State.tapeAppend_initC (v : Digit) : (s.tapeAppend v).initC = s.initC := rfl
@[simp] theorem State.tapeAppend_runState (v : Digit) : (s.tapeAppend v).runState = s.runState := rfl
@[simp] theorem State.tapeAppend_cause (v : Digit) : (s.tapeAppend v).cause = s.cause := rfl
@[simp] theorem State.tapeAppend_steps (v : Digit) : (s.tapeAppend v).steps = s.steps := rfl
@[simp] theorem State.tapeAppend_params (v : Digit) : (s.tapeAppend v).params = s.params := rfl
@[simp] theorem State.tapeAppend_resets (v : Digit) : (s.tapeAppend v).resets = s.resets := rfl
@[simp] theorem State.tapeAppend_draws (v : Digit) : (s.tapeAppend v).draws = s.draws := rfl
@[simp] theorem State.tapeAppend_hostMoves (v : Digit) : (s.tapeAppend v).hostMoves = s.hostMoves := rfl
@[simp] theorem State.tapeAppend_reply (v : Digit) : (s.tapeAppend v).reply = s.reply := rfl

/-! ### retireAt -/

@[simp] theorem State.retireAt_a (target : IpWord) : (s.retireAt target).a = s.a := rfl
@[simp] theorem State.retireAt_b (target : IpWord) : (s.retireAt target).b = s.b := rfl
@[simp] theorem State.retireAt_c (target : IpWord) : (s.retireAt target).c = s.c := rfl
@[simp] theorem State.retireAt_ip (target : IpWord) : (s.retireAt target).ip = target := rfl
@[simp] theorem State.retireAt_plen (target : IpWord) : (s.retireAt target).plen = s.plen := rfl
@[simp] theorem State.retireAt_pmem (target : IpWord) : (s.retireAt target).pmem = s.pmem := rfl
@[simp] theorem State.retireAt_tape (target : IpWord) : (s.retireAt target).tape = s.tape := rfl
@[simp] theorem State.retireAt_tlen (target : IpWord) : (s.retireAt target).tlen = s.tlen := rfl
@[simp] theorem State.retireAt_initA (target : IpWord) : (s.retireAt target).initA = s.initA := rfl
@[simp] theorem State.retireAt_initB (target : IpWord) : (s.retireAt target).initB = s.initB := rfl
@[simp] theorem State.retireAt_initC (target : IpWord) : (s.retireAt target).initC = s.initC := rfl
@[simp] theorem State.retireAt_runState (target : IpWord) : (s.retireAt target).runState = s.runState := rfl
@[simp] theorem State.retireAt_cause (target : IpWord) : (s.retireAt target).cause = s.cause := rfl
@[simp] theorem State.retireAt_steps (target : IpWord) : (s.retireAt target).steps = s.steps + 1 := rfl
@[simp] theorem State.retireAt_params (target : IpWord) : (s.retireAt target).params = s.params := rfl
@[simp] theorem State.retireAt_resets (target : IpWord) : (s.retireAt target).resets = s.resets := rfl
@[simp] theorem State.retireAt_draws (target : IpWord) : (s.retireAt target).draws = s.draws := rfl
@[simp] theorem State.retireAt_hostMoves (target : IpWord) : (s.retireAt target).hostMoves = s.hostMoves := rfl
@[simp] theorem State.retireAt_reply (target : IpWord) : (s.retireAt target).reply = s.reply := rfl

/-! ### advance -/

@[simp] theorem State.advance_a : (s.advance).a = s.a := rfl
@[simp] theorem State.advance_b : (s.advance).b = s.b := rfl
@[simp] theorem State.advance_c : (s.advance).c = s.c := rfl
@[simp] theorem State.advance_ip : (s.advance).ip = s.ip + 2 := rfl
@[simp] theorem State.advance_plen : (s.advance).plen = s.plen := rfl
@[simp] theorem State.advance_pmem : (s.advance).pmem = s.pmem := rfl
@[simp] theorem State.advance_tape : (s.advance).tape = s.tape := rfl
@[simp] theorem State.advance_tlen : (s.advance).tlen = s.tlen := rfl
@[simp] theorem State.advance_initA : (s.advance).initA = s.initA := rfl
@[simp] theorem State.advance_initB : (s.advance).initB = s.initB := rfl
@[simp] theorem State.advance_initC : (s.advance).initC = s.initC := rfl
@[simp] theorem State.advance_runState : (s.advance).runState = s.runState := rfl
@[simp] theorem State.advance_cause : (s.advance).cause = s.cause := rfl
@[simp] theorem State.advance_steps : (s.advance).steps = s.steps + 1 := rfl
@[simp] theorem State.advance_params : (s.advance).params = s.params := rfl
@[simp] theorem State.advance_resets : (s.advance).resets = s.resets := rfl
@[simp] theorem State.advance_draws : (s.advance).draws = s.draws := rfl
@[simp] theorem State.advance_hostMoves : (s.advance).hostMoves = s.hostMoves := rfl
@[simp] theorem State.advance_reply : (s.advance).reply = s.reply := rfl

/-! ### halt -/

@[simp] theorem State.halt_a : (s.halt).a = s.a := rfl
@[simp] theorem State.halt_b : (s.halt).b = s.b := rfl
@[simp] theorem State.halt_c : (s.halt).c = s.c := rfl
@[simp] theorem State.halt_ip : (s.halt).ip = s.ip := rfl
@[simp] theorem State.halt_plen : (s.halt).plen = s.plen := rfl
@[simp] theorem State.halt_pmem : (s.halt).pmem = s.pmem := rfl
@[simp] theorem State.halt_tape : (s.halt).tape = s.tape := rfl
@[simp] theorem State.halt_tlen : (s.halt).tlen = s.tlen := rfl
@[simp] theorem State.halt_initA : (s.halt).initA = s.initA := rfl
@[simp] theorem State.halt_initB : (s.halt).initB = s.initB := rfl
@[simp] theorem State.halt_initC : (s.halt).initC = s.initC := rfl
@[simp] theorem State.halt_runState : (s.halt).runState = .halted := rfl
@[simp] theorem State.halt_cause : (s.halt).cause = s.cause := rfl
@[simp] theorem State.halt_steps : (s.halt).steps = s.steps := rfl
@[simp] theorem State.halt_params : (s.halt).params = s.params := rfl
@[simp] theorem State.halt_resets : (s.halt).resets = s.resets := rfl
@[simp] theorem State.halt_draws : (s.halt).draws = s.draws := rfl
@[simp] theorem State.halt_hostMoves : (s.halt).hostMoves = s.hostMoves := rfl
@[simp] theorem State.halt_reply : (s.halt).reply = s.reply := rfl

/-! ### raise -/

@[simp] theorem State.raise_a (e : FaultCause) : (s.raise e).a = s.a := rfl
@[simp] theorem State.raise_b (e : FaultCause) : (s.raise e).b = s.b := rfl
@[simp] theorem State.raise_c (e : FaultCause) : (s.raise e).c = s.c := rfl
@[simp] theorem State.raise_ip (e : FaultCause) : (s.raise e).ip = s.ip := rfl
@[simp] theorem State.raise_plen (e : FaultCause) : (s.raise e).plen = s.plen := rfl
@[simp] theorem State.raise_pmem (e : FaultCause) : (s.raise e).pmem = s.pmem := rfl
@[simp] theorem State.raise_tape (e : FaultCause) : (s.raise e).tape = s.tape := rfl
@[simp] theorem State.raise_tlen (e : FaultCause) : (s.raise e).tlen = s.tlen := rfl
@[simp] theorem State.raise_initA (e : FaultCause) : (s.raise e).initA = s.initA := rfl
@[simp] theorem State.raise_initB (e : FaultCause) : (s.raise e).initB = s.initB := rfl
@[simp] theorem State.raise_initC (e : FaultCause) : (s.raise e).initC = s.initC := rfl
@[simp] theorem State.raise_runState (e : FaultCause) : (s.raise e).runState = .faulted := rfl
@[simp] theorem State.raise_cause (e : FaultCause) : (s.raise e).cause = e.code := rfl
@[simp] theorem State.raise_steps (e : FaultCause) : (s.raise e).steps = s.steps := rfl
@[simp] theorem State.raise_params (e : FaultCause) : (s.raise e).params = s.params := rfl
@[simp] theorem State.raise_resets (e : FaultCause) : (s.raise e).resets = s.resets := rfl
@[simp] theorem State.raise_draws (e : FaultCause) : (s.raise e).draws = s.draws := rfl
@[simp] theorem State.raise_hostMoves (e : FaultCause) : (s.raise e).hostMoves = s.hostMoves := rfl
@[simp] theorem State.raise_reply (e : FaultCause) : (s.raise e).reply = s.reply := rfl

/-! ### answer -/

@[simp] theorem State.answer_a (v : Nat) : (s.answer v).a = s.a := rfl
@[simp] theorem State.answer_b (v : Nat) : (s.answer v).b = s.b := rfl
@[simp] theorem State.answer_c (v : Nat) : (s.answer v).c = s.c := rfl
@[simp] theorem State.answer_ip (v : Nat) : (s.answer v).ip = s.ip := rfl
@[simp] theorem State.answer_plen (v : Nat) : (s.answer v).plen = s.plen := rfl
@[simp] theorem State.answer_pmem (v : Nat) : (s.answer v).pmem = s.pmem := rfl
@[simp] theorem State.answer_tape (v : Nat) : (s.answer v).tape = s.tape := rfl
@[simp] theorem State.answer_tlen (v : Nat) : (s.answer v).tlen = s.tlen := rfl
@[simp] theorem State.answer_initA (v : Nat) : (s.answer v).initA = s.initA := rfl
@[simp] theorem State.answer_initB (v : Nat) : (s.answer v).initB = s.initB := rfl
@[simp] theorem State.answer_initC (v : Nat) : (s.answer v).initC = s.initC := rfl
@[simp] theorem State.answer_runState (v : Nat) : (s.answer v).runState = s.runState := rfl
@[simp] theorem State.answer_cause (v : Nat) : (s.answer v).cause = s.cause := rfl
@[simp] theorem State.answer_steps (v : Nat) : (s.answer v).steps = s.steps := rfl
@[simp] theorem State.answer_params (v : Nat) : (s.answer v).params = s.params := rfl
@[simp] theorem State.answer_resets (v : Nat) : (s.answer v).resets = s.resets := rfl
@[simp] theorem State.answer_draws (v : Nat) : (s.answer v).draws = s.draws := rfl
@[simp] theorem State.answer_hostMoves (v : Nat) : (s.answer v).hostMoves = s.hostMoves := rfl
@[simp] theorem State.answer_reply (v : Nat) : (s.answer v).reply = some v := rfl

/-! ### noAnswer -/

@[simp] theorem State.noAnswer_a : (s.noAnswer).a = s.a := rfl
@[simp] theorem State.noAnswer_b : (s.noAnswer).b = s.b := rfl
@[simp] theorem State.noAnswer_c : (s.noAnswer).c = s.c := rfl
@[simp] theorem State.noAnswer_ip : (s.noAnswer).ip = s.ip := rfl
@[simp] theorem State.noAnswer_plen : (s.noAnswer).plen = s.plen := rfl
@[simp] theorem State.noAnswer_pmem : (s.noAnswer).pmem = s.pmem := rfl
@[simp] theorem State.noAnswer_tape : (s.noAnswer).tape = s.tape := rfl
@[simp] theorem State.noAnswer_tlen : (s.noAnswer).tlen = s.tlen := rfl
@[simp] theorem State.noAnswer_initA : (s.noAnswer).initA = s.initA := rfl
@[simp] theorem State.noAnswer_initB : (s.noAnswer).initB = s.initB := rfl
@[simp] theorem State.noAnswer_initC : (s.noAnswer).initC = s.initC := rfl
@[simp] theorem State.noAnswer_runState : (s.noAnswer).runState = s.runState := rfl
@[simp] theorem State.noAnswer_cause : (s.noAnswer).cause = s.cause := rfl
@[simp] theorem State.noAnswer_steps : (s.noAnswer).steps = s.steps := rfl
@[simp] theorem State.noAnswer_params : (s.noAnswer).params = s.params := rfl
@[simp] theorem State.noAnswer_resets : (s.noAnswer).resets = s.resets := rfl
@[simp] theorem State.noAnswer_draws : (s.noAnswer).draws = s.draws := rfl
@[simp] theorem State.noAnswer_hostMoves : (s.noAnswer).hostMoves = s.hostMoves := rfl
@[simp] theorem State.noAnswer_reply : (s.noAnswer).reply = none := rfl

/-! ### answerAny -/

@[simp] theorem State.answerAny_a (cut : Nat → Nat) : (s.answerAny cut).a = s.a := rfl
@[simp] theorem State.answerAny_b (cut : Nat → Nat) : (s.answerAny cut).b = s.b := rfl
@[simp] theorem State.answerAny_c (cut : Nat → Nat) : (s.answerAny cut).c = s.c := rfl
@[simp] theorem State.answerAny_ip (cut : Nat → Nat) : (s.answerAny cut).ip = s.ip := rfl
@[simp] theorem State.answerAny_plen (cut : Nat → Nat) : (s.answerAny cut).plen = s.plen := rfl
@[simp] theorem State.answerAny_pmem (cut : Nat → Nat) : (s.answerAny cut).pmem = s.pmem := rfl
@[simp] theorem State.answerAny_tape (cut : Nat → Nat) : (s.answerAny cut).tape = s.tape := rfl
@[simp] theorem State.answerAny_tlen (cut : Nat → Nat) : (s.answerAny cut).tlen = s.tlen := rfl
@[simp] theorem State.answerAny_initA (cut : Nat → Nat) : (s.answerAny cut).initA = s.initA := rfl
@[simp] theorem State.answerAny_initB (cut : Nat → Nat) : (s.answerAny cut).initB = s.initB := rfl
@[simp] theorem State.answerAny_initC (cut : Nat → Nat) : (s.answerAny cut).initC = s.initC := rfl
@[simp] theorem State.answerAny_runState (cut : Nat → Nat) : (s.answerAny cut).runState = s.runState := rfl
@[simp] theorem State.answerAny_cause (cut : Nat → Nat) : (s.answerAny cut).cause = s.cause := rfl
@[simp] theorem State.answerAny_steps (cut : Nat → Nat) : (s.answerAny cut).steps = s.steps := rfl
@[simp] theorem State.answerAny_params (cut : Nat → Nat) : (s.answerAny cut).params = s.params := rfl
@[simp] theorem State.answerAny_resets (cut : Nat → Nat) : (s.answerAny cut).resets = s.resets := rfl
@[simp] theorem State.answerAny_draws (cut : Nat → Nat) : (s.answerAny cut).draws = s.draws + 1 := rfl
@[simp] theorem State.answerAny_hostMoves (cut : Nat → Nat) : (s.answerAny cut).hostMoves = s.hostMoves := rfl
@[simp] theorem State.answerAny_reply (cut : Nat → Nat) : (s.answerAny cut).reply = some (cut (Config.hostReadValue s.draws)) := rfl

/-! ### hostReset -/

@[simp] theorem State.hostReset_a : (s.hostReset).a = 0 := rfl
@[simp] theorem State.hostReset_b : (s.hostReset).b = 0 := rfl
@[simp] theorem State.hostReset_c : (s.hostReset).c = 0 := rfl
@[simp] theorem State.hostReset_ip : (s.hostReset).ip = 0 := rfl
@[simp] theorem State.hostReset_plen : (s.hostReset).plen = 0 := rfl
@[simp] theorem State.hostReset_pmem : (s.hostReset).pmem = [] := rfl
@[simp] theorem State.hostReset_tape : (s.hostReset).tape = [] := rfl
@[simp] theorem State.hostReset_tlen : (s.hostReset).tlen = 0 := rfl
@[simp] theorem State.hostReset_initA : (s.hostReset).initA = 0 := rfl
@[simp] theorem State.hostReset_initB : (s.hostReset).initB = 0 := rfl
@[simp] theorem State.hostReset_initC : (s.hostReset).initC = 0 := rfl
@[simp] theorem State.hostReset_runState : (s.hostReset).runState = .idle := rfl
@[simp] theorem State.hostReset_cause : (s.hostReset).cause = 0 := rfl
@[simp] theorem State.hostReset_steps : (s.hostReset).steps = 0 := rfl
@[simp] theorem State.hostReset_params : (s.hostReset).params = s.params := rfl
@[simp] theorem State.hostReset_resets : (s.hostReset).resets = s.resets + 1 := rfl
@[simp] theorem State.hostReset_draws : (s.hostReset).draws = s.draws := rfl
@[simp] theorem State.hostReset_hostMoves : (s.hostReset).hostMoves = s.hostMoves := rfl
@[simp] theorem State.hostReset_reply : (s.hostReset).reply = none := rfl

/-! ### writeReg -/

@[simp] theorem State.writeReg_ip (r : Reg) (v : Word) : (s.writeReg r v).ip = s.ip := by
  cases r <;> rfl
@[simp] theorem State.writeReg_plen (r : Reg) (v : Word) : (s.writeReg r v).plen = s.plen := by
  cases r <;> rfl
@[simp] theorem State.writeReg_pmem (r : Reg) (v : Word) : (s.writeReg r v).pmem = s.pmem := by
  cases r <;> rfl
@[simp] theorem State.writeReg_tape (r : Reg) (v : Word) : (s.writeReg r v).tape = s.tape := by
  cases r <;> rfl
@[simp] theorem State.writeReg_tlen (r : Reg) (v : Word) : (s.writeReg r v).tlen = s.tlen := by
  cases r <;> rfl
@[simp] theorem State.writeReg_initA (r : Reg) (v : Word) : (s.writeReg r v).initA = s.initA := by
  cases r <;> rfl
@[simp] theorem State.writeReg_initB (r : Reg) (v : Word) : (s.writeReg r v).initB = s.initB := by
  cases r <;> rfl
@[simp] theorem State.writeReg_initC (r : Reg) (v : Word) : (s.writeReg r v).initC = s.initC := by
  cases r <;> rfl
@[simp] theorem State.writeReg_runState (r : Reg) (v : Word) : (s.writeReg r v).runState = s.runState := by
  cases r <;> rfl
@[simp] theorem State.writeReg_cause (r : Reg) (v : Word) : (s.writeReg r v).cause = s.cause := by
  cases r <;> rfl
@[simp] theorem State.writeReg_steps (r : Reg) (v : Word) : (s.writeReg r v).steps = s.steps := by
  cases r <;> rfl
@[simp] theorem State.writeReg_params (r : Reg) (v : Word) : (s.writeReg r v).params = s.params := by
  cases r <;> rfl
@[simp] theorem State.writeReg_resets (r : Reg) (v : Word) : (s.writeReg r v).resets = s.resets := by
  cases r <;> rfl
@[simp] theorem State.writeReg_draws (r : Reg) (v : Word) : (s.writeReg r v).draws = s.draws := by
  cases r <;> rfl
@[simp] theorem State.writeReg_hostMoves (r : Reg) (v : Word) : (s.writeReg r v).hostMoves = s.hostMoves := by
  cases r <;> rfl
@[simp] theorem State.writeReg_reply (r : Reg) (v : Word) : (s.writeReg r v).reply = s.reply := by
  cases r <;> rfl
@[simp] theorem State.writeReg_A_a (v : Word) : (s.writeReg .A v).a = v := rfl
@[simp] theorem State.writeReg_A_b (v : Word) : (s.writeReg .A v).b = s.b := rfl
@[simp] theorem State.writeReg_A_c (v : Word) : (s.writeReg .A v).c = s.c := rfl
@[simp] theorem State.writeReg_B_a (v : Word) : (s.writeReg .B v).a = s.a := rfl
@[simp] theorem State.writeReg_B_b (v : Word) : (s.writeReg .B v).b = v := rfl
@[simp] theorem State.writeReg_B_c (v : Word) : (s.writeReg .B v).c = s.c := rfl
@[simp] theorem State.writeReg_C_a (v : Word) : (s.writeReg .C v).a = s.a := rfl
@[simp] theorem State.writeReg_C_b (v : Word) : (s.writeReg .C v).b = s.b := rfl
@[simp] theorem State.writeReg_C_c (v : Word) : (s.writeReg .C v).c = v := rfl

/-! ### The register file read back -/

@[simp] theorem State.readReg_A : s.readReg .A = s.a := rfl
@[simp] theorem State.readReg_B : s.readReg .B = s.b := rfl
@[simp] theorem State.readReg_C : s.readReg .C = s.c := rfl

@[simp] theorem State.readReg_writeReg_same (r : Reg) (v : Word) : (s.writeReg r v).readReg r = v := by
  cases r <;> rfl

theorem State.readReg_writeReg_other {r q : Reg} (v : Word) (h : q ≠ r) :
    (s.writeReg r v).readReg q = s.readReg q := by
  cases r <;> cases q <;> first | rfl | exact absurd rfl h

end Sys2Proof.Machine
end

