-- ==== Sys2Proof/Laws/Memory.lean ====
section
/-! SUPPORT. The laws of the sparse memories PMEM and TAPE: read after write, the canonical form, the bound. -/

namespace Sys2Proof.Machine

variable {w : Nat}

@[simp] theorem Memory.read_nil (a : Nat) : Memory.read ([] : List (Nat × BitVec w)) a = none := rfl

@[simp] theorem Memory.read_write_same (m : List (Nat × BitVec w)) (a : Nat) (v : BitVec w) :
    Memory.read (Memory.write m a v) a = some v := by
  induction m with
  | nil => simp [Memory.write, Memory.read]
  | cons cell rest ih =>
    obtain ⟨k, u⟩ := cell
    simp only [Memory.write]
    split
    · simp [Memory.read]
    · split
      · simp [Memory.read]
      · rename_i hne
        simp [Memory.read, ih, Ne.symm hne]

theorem Memory.read_write_other (m : List (Nat × BitVec w)) {a i : Nat} (v : BitVec w) (h : i ≠ a) :
    Memory.read (Memory.write m a v) i = Memory.read m i := by
  induction m with
  | nil => simp [Memory.write, Memory.read, Ne.symm h]
  | cons cell rest ih =>
    obtain ⟨k, u⟩ := cell
    simp only [Memory.write]
    split
    · simp [Memory.read, Ne.symm h]
    · split
      · rename_i heq
        subst heq
        simp [Memory.read, Ne.symm h]
      · simp [Memory.read, ih]

/-- The addresses a write lists: the old ones and the written one. -/
theorem Memory.mem_keys_write (m : List (Nat × BitVec w)) (a : Nat) (v : BitVec w) (k : Nat) :
    k ∈ (Memory.write m a v).map Prod.fst ↔ k = a ∨ k ∈ m.map Prod.fst := by
  induction m with
  | nil => simp [Memory.write]
  | cons cell rest ih =>
    obtain ⟨j, u⟩ := cell
    simp only [Memory.write]
    split
    · simp
    · split
      · rename_i heq
        subst heq
        simp
      · simp only [List.map_cons, List.mem_cons, ih]
        tauto

/-- Every write keeps the canonical form. -/
theorem Memory.wf_write {m : List (Nat × BitVec w)} (h : Memory.wf m) (a : Nat) (v : BitVec w) :
    Memory.wf (Memory.write m a v) := by
  induction m with
  | nil => simp [Memory.wf, Memory.write]
  | cons cell rest ih =>
    obtain ⟨k, u⟩ := cell
    obtain ⟨hk, hrest⟩ := List.pairwise_cons.mp h
    simp only [Memory.write]
    split
    · rename_i hlt
      refine List.pairwise_cons.mpr ⟨fun j hj => ?_, h⟩
      rcases List.mem_cons.mp hj with rfl | hj
      · exact hlt
      · exact hlt.trans (hk j hj)
    · split
      · rename_i heq
        subst heq
        exact List.pairwise_cons.mpr ⟨hk, hrest⟩
      · rename_i hnlt hne
        refine List.pairwise_cons.mpr ⟨fun j hj => ?_, ih hrest⟩
        rcases (Memory.mem_keys_write rest a v j).mp hj with rfl | hj
        · change k < j
          omega
        · exact hk j hj

/-- A write inside the memory keeps every listed address inside it. -/
theorem Memory.below_write {m : List (Nat × BitVec w)} {cap : Nat} (h : Memory.below m cap) {a : Nat} (ha : a < cap)
    (v : BitVec w) : Memory.below (Memory.write m a v) cap := by
  intro k hk
  rcases (Memory.mem_keys_write m a v k).mp hk with rfl | hk
  · exact ha
  · exact h k hk

/-- The memories of the reset state are in canonical form. -/
theorem State.reset_memories_wf : Memory.wf State.reset.pmem ∧ Memory.wf State.reset.tape := by
  simp [State.reset, Memory.wf]

/-- Every operation that writes PMEM or TAPE keeps the canonical form. -/
theorem State.writePmem_wf {s : State} (h : Memory.wf s.pmem) (a : Nat) (v : Byte) :
    Memory.wf (s.writePmem a v).pmem := Memory.wf_write h a v

theorem State.tapeAppend_wf {s : State} (h : Memory.wf s.tape) (v : Digit) :
    Memory.wf (s.tapeAppend v).tape := Memory.wf_write h s.tlen v

/-! ### Reading one byte of PMEM or one entry of TAPE -/

@[simp] theorem State.pmemByte_writePmem_same (s : State) (a : Nat) (v : Byte) :
    (s.writePmem a v).pmemByte a = v := by simp [State.pmemByte]

theorem State.pmemByte_writePmem_other (s : State) {a i : Nat} (v : Byte) (h : i ≠ a) :
    (s.writePmem a v).pmemByte i = s.pmemByte i := by
  simp [State.pmemByte, Memory.read_write_other s.pmem v h]

@[simp] theorem State.tapeEntry_tapeAppend_same (s : State) (v : Digit) :
    (s.tapeAppend v).tapeEntry s.tlen = v := by simp [State.tapeEntry]

theorem State.tapeEntry_tapeAppend_other (s : State) {i : Nat} (v : Digit) (h : i ≠ s.tlen) :
    (s.tapeAppend v).tapeEntry i = s.tapeEntry i := by
  simp [State.tapeEntry, Memory.read_write_other s.tape v h]

/-- A state with the same PMEM list and the same RESET count reads the same bytes. -/
theorem State.pmemByte_congr {s t : State} (hp : t.pmem = s.pmem) (hr : t.resets = s.resets) (i : Nat) :
    t.pmemByte i = s.pmemByte i := by simp [State.pmemByte, hp, hr]

/-- A state with the same TAPE list and the same RESET count reads the same entries. -/
theorem State.tapeEntry_congr {s t : State} (hp : t.tape = s.tape) (hr : t.resets = s.resets) (i : Nat) :
    t.tapeEntry i = s.tapeEntry i := by simp [State.tapeEntry, hp, hr]

end Sys2Proof.Machine
end

