-- ==== Sys2Proof/Laws/Operands.lean ====
section
/-! SUPPORT. What the operand resolvers, the combo form and the tape append can do, each said once. -/

namespace Sys2Proof.Machine

@[simp] theorem resolveLiteral_eq (opd : Byte) : resolveLiteral opd = opd := rfl

@[simp] theorem resolveCombo_lit (n : BitVec 2) (s : State) : resolveCombo (.lit n) s = some (n.setWidth 64) := rfl

@[simp] theorem resolveCombo_reg (r : Reg) (s : State) : resolveCombo (.reg r) s = some (s.readReg r) := rfl

@[simp] theorem resolveCombo_invalid (opd : Byte) (s : State) : resolveCombo (.invalid opd) s = none := rfl

/-- A combo instruction runs its arm on the resolved value. -/
theorem withCombo_of_some {o : Combo} {s : State} {v : Word} (h : resolveCombo o s = some v) (arm : Word → Result) :
    withCombo o s arm = arm v := by simp [withCombo, h]

/-- A combo instruction whose operand does not resolve raises InvalidOperand. -/
theorem withCombo_of_none {o : Combo} {s : State} (h : resolveCombo o s = none) (arm : Word → Result) :
    withCombo o s arm = .next (s.raise .invalidOperand) := by simp [withCombo, h]

/-- Everything a combo instruction can do. -/
theorem withCombo_cases (o : Combo) (s : State) (arm : Word → Result) :
    (∃ v, resolveCombo o s = some v ∧ withCombo o s arm = arm v) ∨
      resolveCombo o s = none ∧ withCombo o s arm = .next (s.raise .invalidOperand) := by
  cases h : resolveCombo o s with
  | some v => exact .inl ⟨v, rfl, withCombo_of_some h arm⟩
  | none => exact .inr ⟨rfl, withCombo_of_none h arm⟩

/-- Everything the append of out can do. -/
theorem emit_cases (v : Digit) (s : State) :
    s.tlen = s.params.tapeCap ∧ emit v s = .next (s.raise .tapeOverflow) ∨
      s.params.tapeCap < s.tlen ∧ emit v s = .fault (.appendOutsideTape s.tlen) ∨
      s.tlen < s.params.tapeCap ∧ emit v s = .next (s.tapeAppend v).advance := by
  unfold emit
  rcases Nat.lt_trichotomy s.tlen s.params.tapeCap with h | h | h
  · exact .inr (.inr ⟨h, by rw [if_neg (Nat.ne_of_lt h), if_neg (Nat.not_lt_of_gt h)]⟩)
  · exact .inl ⟨h, if_pos h⟩
  · exact .inr (.inl ⟨h, by rw [if_neg (Nat.ne_of_gt h), if_pos h]⟩)

end Sys2Proof.Machine
end

