-- ==== Sys2Proof/Laws/Exec.lean ====
section
/-! SUPPORT. What an instruction can do, said once for all eight. -/

namespace Sys2Proof.Machine

/-- The register a register-writing instruction names (R21). -/
def Instr.dest : Instr → Option Reg
  | .adv _ => some .A
  | .bxl _ | .bst _ | .bxc _ | .bdv _ => some .B
  | .cdv _ => some .C
  | .jnz _ | .out _ => none

/-- A taken jnz (R130). -/
theorem execJnz_taken {s : State} (k : Byte) (h : s.a ≠ 0) : execJnz k s = .next (s.retireAt (k.setWidth 16)) :=
  if_pos h

/-- A jnz that is not taken (R95, R130). -/
theorem execJnz_not_taken {s : State} (k : Byte) (h : s.a = 0) : execJnz k s = .next s.advance :=
  if_neg (not_not.mpr h)

/-- Everything an instruction that answers a next state can have done: write the register it names, jump, fall through
a jump, append to the tape, or raise one of its two faults. -/
theorem exec_next_cases {i : Instr} {s t : State} (h : exec i s = .next t) :
    (∃ r v, Instr.dest i = some r ∧ t = (s.writeReg r v).advance) ∨
      (∃ k, i = .jnz k ∧ s.a ≠ 0 ∧ t = s.retireAt (k.setWidth 16)) ∨
      (∃ k, i = .jnz k ∧ s.a = 0 ∧ t = s.advance) ∨
      (∃ o v, i = .out o ∧ s.tlen < s.params.tapeCap ∧ t = (s.tapeAppend v).advance) ∨
      (∃ o, i = .out o ∧ s.tlen = s.params.tapeCap ∧ t = s.raise .tapeOverflow) ∨
      ((∃ o, i = .adv o ∨ i = .bst o ∨ i = .out o ∨ i = .bdv o ∨ i = .cdv o) ∧ t = s.raise .invalidOperand) := by
  have combo {o : Combo} {arm : Word → Result} (hw : withCombo o s arm = .next t) :
      (∃ v, resolveCombo o s = some v ∧ arm v = .next t) ∨ t = s.raise .invalidOperand := by
    rcases withCombo_cases o s arm with ⟨v, hv, he⟩ | ⟨_, he⟩
    · exact .inl ⟨v, hv, he ▸ hw⟩
    · rw [he] at hw
      injection hw with hw
      exact .inr hw.symm
  cases i with
  | adv o =>
    rcases combo h with ⟨v, _, hv⟩ | hv
    · injection hv with hv
      exact .inl ⟨.A, _, rfl, hv.symm⟩
    · exact .inr (.inr (.inr (.inr (.inr ⟨⟨o, .inl rfl⟩, hv⟩))))
  | bxl k =>
    simp only [exec, execBxl] at h
    injection h with h
    exact .inl ⟨.B, _, rfl, h.symm⟩
  | bst o =>
    rcases combo h with ⟨v, _, hv⟩ | hv
    · injection hv with hv
      exact .inl ⟨.B, _, rfl, hv.symm⟩
    · exact .inr (.inr (.inr (.inr (.inr ⟨⟨o, .inr (.inl rfl)⟩, hv⟩))))
  | jnz k =>
    simp only [exec] at h
    by_cases ha : s.a = 0
    · rw [execJnz_not_taken k ha] at h
      injection h with h
      exact .inr (.inr (.inl ⟨k, rfl, ha, h.symm⟩))
    · rw [execJnz_taken k ha] at h
      injection h with h
      exact .inr (.inl ⟨k, rfl, ha, h.symm⟩)
  | bxc x =>
    simp only [exec, execBxc] at h
    injection h with h
    exact .inl ⟨.B, _, rfl, h.symm⟩
  | out o =>
    rcases combo h with ⟨v, _, hv⟩ | hv
    · rcases emit_cases (v.setWidth 3) s with ⟨hf, he⟩ | ⟨_, he⟩ | ⟨hl, he⟩
      · rw [he] at hv
        injection hv with hv
        exact .inr (.inr (.inr (.inr (.inl ⟨o, rfl, hf, hv.symm⟩))))
      · rw [he] at hv
        injection hv
      · rw [he] at hv
        injection hv with hv
        exact .inr (.inr (.inr (.inl ⟨o, _, rfl, hl, hv.symm⟩)))
    · exact .inr (.inr (.inr (.inr (.inr ⟨⟨o, .inr (.inr (.inl rfl))⟩, hv⟩))))
  | bdv o =>
    rcases combo h with ⟨v, _, hv⟩ | hv
    · injection hv with hv
      exact .inl ⟨.B, _, rfl, hv.symm⟩
    · exact .inr (.inr (.inr (.inr (.inr ⟨⟨o, .inr (.inr (.inr (.inl rfl)))⟩, hv⟩))))
  | cdv o =>
    rcases combo h with ⟨v, _, hv⟩ | hv
    · injection hv with hv
      exact .inl ⟨.C, _, rfl, hv.symm⟩
    · exact .inr (.inr (.inr (.inr (.inr ⟨⟨o, .inr (.inr (.inr (.inr rfl)))⟩, hv⟩))))

end Sys2Proof.Machine
end

