-- ==== Sys2Proof/Laws/Host.lean ====
section
/-! SUPPORT. What each move of the host can do, said once. -/

namespace Sys2Proof.Machine

variable (s : State)

theorem State.start_of_running (h : s.runState = .running) : s.start = s := if_pos h

theorem State.start_of_not_running (h : s.runState ≠ .running) :
    s.start = { s with a := s.initA, b := s.initB, c := s.initC, ip := 0, tlen := 0, steps := 0, cause := 0, runState := .running } :=
  if_neg h

/-- A host register write changes nothing, an INIT register, or PLEN to a value from 0 to PROG_CAP (R35). -/
theorem State.hostWriteRegister_cases (n : BitVec 4) (v : Nat) :
    s.hostWriteRegister n v = s ∨
      (s.runState ≠ .running ∧
        (s.hostWriteRegister n v = { s with initA := BitVec.ofNat 64 v } ∨
          s.hostWriteRegister n v = { s with initB := BitVec.ofNat 64 v } ∨
          s.hostWriteRegister n v = { s with initC := BitVec.ofNat 64 v } ∨
          (v ≤ Config.progCap ∧ s.hostWriteRegister n v = { s with plen := BitVec.ofNat 16 v }))) := by
  unfold State.hostWriteRegister
  split
  · exact .inl rfl
  · rename_i h
    split
    · exact .inr ⟨h, .inl rfl⟩
    · exact .inr ⟨h, .inr (.inl rfl)⟩
    · exact .inr ⟨h, .inr (.inr (.inl rfl))⟩
    · split
      · rename_i hv
        exact .inr ⟨h, .inr (.inr (.inr ⟨hv, rfl⟩))⟩
      · exact .inl rfl
    · exact .inl rfl

/-- A host PMEM write changes nothing, or one byte inside PMEM while no run is in progress (R36). -/
theorem State.hostWritePmem_cases (a : Nat) (b : Byte) :
    s.hostWritePmem a b = s ∨
      (s.runState ≠ .running ∧ a < Config.progCap ∧ s.hostWritePmem a b = s.writePmem a b) := by
  unfold State.hostWritePmem
  split
  · rename_i h
    exact .inr ⟨h.1, h.2, rfl⟩
  · exact .inl rfl

/-- A host read changes the answer and the count of unspecified values only (R37, R55). -/
theorem State.hostReadRegister_eq (n : BitVec 4) :
    ∃ r d, s.hostReadRegister n = { s with reply := r, draws := d } := by
  unfold State.hostReadRegister
  split
  · exact ⟨_, _, rfl⟩
  · split <;> exact ⟨_, _, rfl⟩

theorem State.hostReadPmem_eq (a : Nat) : ∃ r d, s.hostReadPmem a = { s with reply := r, draws := d } := by
  unfold State.hostReadPmem
  split <;> exact ⟨_, _, rfl⟩

theorem State.hostReadTape_eq (i : Nat) : ∃ r d, s.hostReadTape i = { s with reply := r, draws := d } := by
  unfold State.hostReadTape
  split <;> exact ⟨_, _, rfl⟩

/-- Every host move but START and RESET leaves the registers, the run control and the tape; PLEN and PMEM it leaves
while a run is in progress (R22, R27, R60). -/
theorem State.hostMove_frame {move : HostMove} (hs : move ≠ .start) (hr : move ≠ .reset) :
    (s.hostMove move).a = s.a ∧ (s.hostMove move).b = s.b ∧ (s.hostMove move).c = s.c ∧
      (s.hostMove move).ip = s.ip ∧ (s.hostMove move).tape = s.tape ∧ (s.hostMove move).tlen = s.tlen ∧
      (s.hostMove move).runState = s.runState ∧ (s.hostMove move).cause = s.cause ∧
      (s.hostMove move).steps = s.steps ∧ (s.hostMove move).params = s.params ∧
      (s.hostMove move).resets = s.resets ∧ (s.hostMove move).hostMoves = s.hostMoves ∧
      (s.runState = .running → (s.hostMove move).plen = s.plen ∧ (s.hostMove move).pmem = s.pmem) := by
  cases move with
  | wait => simp [State.hostMove]
  | writeRegister n v =>
    rcases s.hostWriteRegister_cases n v with h | ⟨hn, h | h | h | ⟨_, h⟩⟩ <;> simp_all [State.hostMove]
  | writePmem a b =>
    rcases s.hostWritePmem_cases a b with h | ⟨hn, _, h⟩ <;> simp_all [State.hostMove]
  | readRegister n =>
    obtain ⟨r, d, h⟩ := s.hostReadRegister_eq n
    simp [State.hostMove, h]
  | readPmem a =>
    obtain ⟨r, d, h⟩ := s.hostReadPmem_eq a
    simp [State.hostMove, h]
  | readTape i =>
    obtain ⟨r, d, h⟩ := s.hostReadTape_eq i
    simp [State.hostMove, h]
  | start => exact absurd rfl hs
  | reset => exact absurd rfl hr

end Sys2Proof.Machine
end

