-- ==== Sys2Proof/Laws/PerInstr.lean ====
section
/-! SUPPORT. A family of facts with one lemma per constructor of Instr. -/

namespace Sys2Proof.Laws.EncodedOpcode

/-- The opcode byte an instruction is encoded with is one of the eight defined ones, and it is a legal opcode with
any operand byte after it (R72, R75). -/
def Statement (i : Instr) : Prop :=
  (encode i).1.toNat < 8 ∧ ∀ opd : Byte, ∃ j : Instr, decode (encode i).1 opd = .ok j ∧ j.opcode = i.opcode

theorem adv (o : Combo) : Statement (.adv o) := ⟨by simp [encode, Instr.opcode], fun _ => ⟨_, rfl, rfl⟩⟩
theorem bxl (k : Byte) : Statement (.bxl k) := ⟨by simp [encode, Instr.opcode], fun _ => ⟨_, rfl, rfl⟩⟩
theorem bst (o : Combo) : Statement (.bst o) := ⟨by simp [encode, Instr.opcode], fun _ => ⟨_, rfl, rfl⟩⟩
theorem jnz (t : Byte) : Statement (.jnz t) := ⟨by simp [encode, Instr.opcode], fun _ => ⟨_, rfl, rfl⟩⟩
theorem bxc (x : Byte) : Statement (.bxc x) := ⟨by simp [encode, Instr.opcode], fun _ => ⟨_, rfl, rfl⟩⟩
theorem out (o : Combo) : Statement (.out o) := ⟨by simp [encode, Instr.opcode], fun _ => ⟨_, rfl, rfl⟩⟩
theorem bdv (o : Combo) : Statement (.bdv o) := ⟨by simp [encode, Instr.opcode], fun _ => ⟨_, rfl, rfl⟩⟩
theorem cdv (o : Combo) : Statement (.cdv o) := ⟨by simp [encode, Instr.opcode], fun _ => ⟨_, rfl, rfl⟩⟩

end Sys2Proof.Laws.EncodedOpcode
end

