-- ==== Sys2Proof/Laws/Step.lean ====
section
/-! SUPPORT. What a step of the block and a step of the machine can do. -/

namespace Sys2Proof.Machine

/-- What the decoder rejects has an opcode byte of 8 or more (R72). -/
theorem decode_error {opc opd : Byte} {e : DecodeError} (h : decode opc opd = .error e) : 8 ≤ opc.toNat := by
  by_contra hlt
  have hcases : opc.toNat = 0 ∨ opc.toNat = 1 ∨ opc.toNat = 2 ∨ opc.toNat = 3 ∨ opc.toNat = 4 ∨ opc.toNat = 5 ∨
      opc.toNat = 6 ∨ opc.toNat = 7 := by omega
  rcases hcases with h' | h' | h' | h' | h' | h' | h' | h' <;> simp [decode, h'] at h

/-- The fetch inside PMEM (R93). -/
theorem fetch_of_lt {s : State} (h : s.ip.toNat + 1 < Config.progCap) :
    fetch s = .ok (s.pmemByte s.ip.toNat, s.pmemByte (s.ip.toNat + 1)) := by
  have h' : s.ip.toNat < Config.progCap := Nat.lt_of_succ_lt h
  simp [fetch, memRead, h, h']

/-- The fetch answers the two bytes at IP and IP + 1, or the model's own fault (R93). -/
theorem fetch_ok {s : State} {opc opd : Byte} (h : fetch s = .ok (opc, opd)) :
    opc = s.pmemByte s.ip.toNat ∧ opd = s.pmemByte (s.ip.toNat + 1) ∧ s.ip.toNat + 1 < Config.progCap := by
  unfold fetch memRead at h
  by_cases h1 : s.ip.toNat + 1 < Config.progCap
  · rw [if_pos (Nat.lt_of_succ_lt h1), if_pos h1] at h
    simp only [Except.ok.injEq, Prod.mk.injEq] at h
    exact ⟨h.1.symm, h.2.symm, h1⟩
  · rw [if_neg h1] at h
    by_cases h0 : s.ip.toNat < Config.progCap
    · rw [if_pos h0] at h
      simp at h
    · rw [if_neg h0] at h
      simp at h

/-- Outside RUNNING the block takes no step (R90, R166). -/
theorem blockStep_not_running {s : State} (h : s.runState ≠ .running) : blockStep s = .next s := if_pos h

/-- The halt test comes first (R91). -/
theorem blockStep_atEnd {s : State} (hr : s.runState = .running) (he : s.atEnd) : blockStep s = .next s.halt := by
  unfold blockStep
  rw [if_neg (not_not.mpr hr), if_pos he]

/-- Then the step cap (R92). -/
theorem blockStep_atLimit {s : State} (hr : s.runState = .running) (he : ¬s.atEnd) (hl : s.atLimit) :
    blockStep s = .next (s.raise .executionLimitExceeded) := by
  unfold blockStep
  rw [if_neg (not_not.mpr hr), if_neg he, if_pos hl]

/-- Then the fetch, the opcode check and the arm (R93, R94), inside PMEM. -/
theorem blockStep_fetched {s : State} (hr : s.runState = .running) (he : ¬s.atEnd) (hl : ¬s.atLimit)
    (hp : s.ip.toNat + 1 < Config.progCap) :
    blockStep s = decodeAndExec (s.pmemByte s.ip.toNat) (s.pmemByte (s.ip.toNat + 1)) s := by
  unfold blockStep
  rw [if_neg (not_not.mpr hr), if_neg he, if_neg hl, fetch_of_lt hp]

/-- Everything a step of the block that answers a next state can have done (R90, R157). -/
theorem blockStep_next_cases {s t : State} (h : blockStep s = .next t) :
    (s.runState ≠ .running ∧ t = s) ∨
      (s.runState = .running ∧ s.atEnd ∧ t = s.halt) ∨
      (s.runState = .running ∧ ¬s.atEnd ∧ s.atLimit ∧ t = s.raise .executionLimitExceeded) ∨
      (s.runState = .running ∧ ¬s.atEnd ∧ ¬s.atLimit ∧
        8 ≤ (s.pmemByte s.ip.toNat).toNat ∧ t = s.raise .invalidOpcode) ∨
      (s.runState = .running ∧ ¬s.atEnd ∧ ¬s.atLimit ∧
        ∃ i, decode (s.pmemByte s.ip.toNat) (s.pmemByte (s.ip.toNat + 1)) = .ok i ∧ exec i s = .next t) := by
  unfold blockStep at h
  by_cases hr : s.runState = .running
  · rw [if_neg (not_not.mpr hr)] at h
    by_cases he : s.atEnd
    · rw [if_pos he] at h
      injection h with h
      exact .inr (.inl ⟨hr, he, h.symm⟩)
    · rw [if_neg he] at h
      by_cases hl : s.atLimit
      · rw [if_pos hl] at h
        injection h with h
        exact .inr (.inr (.inl ⟨hr, he, hl, h.symm⟩))
      · rw [if_neg hl] at h
        cases hf : fetch s with
        | error f => simp [hf] at h
        | ok p =>
          obtain ⟨opc, opd⟩ := p
          obtain ⟨rfl, rfl, _⟩ := fetch_ok hf
          simp only [hf, decodeAndExec] at h
          split at h
          · rename_i hd
            injection h with h
            exact .inr (.inr (.inr (.inl ⟨hr, he, hl, decode_error hd, h.symm⟩)))
          · rename_i i hd
            exact .inr (.inr (.inr (.inr ⟨hr, he, hl, i, hd, h⟩)))
  · rw [if_pos hr] at h
    injection h with h
    exact .inl ⟨hr, h.symm⟩

/-! ### The machine -/

theorem step_of_reserved {s : State} (h : 4 < s.cause.toNat) : step s = .refused (.reservedCause s.cause) := if_pos h

theorem step_nil {s : State} (hc : s.cause.toNat ≤ 4) (hm : s.hostMoves = []) : step s = blockStep s := by
  unfold step
  rw [if_neg (Nat.not_lt.mpr hc), hm]

theorem step_wait {s : State} {rest : List HostMove} (hc : s.cause.toNat ≤ 4) (hm : s.hostMoves = .wait :: rest) :
    step s = blockStep { s with hostMoves := rest } := by
  unfold step
  rw [if_neg (Nat.not_lt.mpr hc), hm]

theorem step_move {s : State} {move : HostMove} {rest : List HostMove} (hc : s.cause.toNat ≤ 4)
    (hm : s.hostMoves = move :: rest) (hw : move ≠ .wait) :
    step s = .next ({ s with hostMoves := rest }.hostMove move) := by
  unfold step
  rw [if_neg (Nat.not_lt.mpr hc), hm]
  cases move <;> first | rfl | exact absurd rfl hw

/-- Everything a step of the machine that answers a next state can have done. -/
theorem step_next_cases {s t : State} (h : step s = .next t) :
    s.cause.toNat ≤ 4 ∧
      ((s.hostMoves = [] ∧ blockStep s = .next t) ∨
        (∃ rest, s.hostMoves = .wait :: rest ∧ blockStep { s with hostMoves := rest } = .next t) ∨
        ∃ move rest, s.hostMoves = move :: rest ∧ move ≠ .wait ∧ t = { s with hostMoves := rest }.hostMove move) := by
  by_cases hc : 4 < s.cause.toNat
  · rw [step_of_reserved hc] at h
    cases h
  · have hc := Nat.not_lt.mp hc
    refine ⟨hc, ?_⟩
    cases hm : s.hostMoves with
    | nil => exact .inl ⟨rfl, step_nil hc hm ▸ h⟩
    | cons move rest =>
      by_cases hw : move = .wait
      · subst hw
        exact .inr (.inl ⟨rest, rfl, step_wait hc hm ▸ h⟩)
      · rw [step_move hc hm hw] at h
        injection h with h
        exact .inr (.inr ⟨move, rest, rfl, hw, h.symm⟩)

end Sys2Proof.Machine
end

