-- ==== Sys2Proof/Laws/Run.lean ====
section
/-! SUPPORT. Runs of several steps, one step at a time. -/

namespace Sys2Proof.Machine

@[simp] theorem run_zero (s : State) : run 0 s = .next s := rfl

/-- A run whose first step answers a next state goes on from there. -/
theorem run_succ {s t : State} (h : step s = .next t) (n : Nat) : run (n + 1) s = run n t := by
  have hstep : core.step s = .next t := h
  simp only [run, Host.Core.run, hstep]
  rfl

/-- A run of `n + m` steps whose first `n` reach `t` is the run of `m` steps from `t`. -/
theorem run_add {s t : State} (n m : Nat) (h : run n s = .next t) : run (n + m) s = run m t := by
  induction n generalizing s with
  | zero =>
    cases h
    rw [Nat.zero_add]
  | succ n ih =>
    have hfirst : ∃ u, step s = .next u := by
      cases hs : step s with
      | next u => exact ⟨u, rfl⟩
      | fault r =>
        have hstep : core.step s = .fault r := hs
        simp [run, Host.Core.run, hstep] at h
      | refused r =>
        have hstep : core.step s = .refused r := hs
        simp [run, Host.Core.run, hstep] at h
    obtain ⟨u, hu⟩ := hfirst
    rw [run_succ hu n] at h
    rw [Nat.add_right_comm, run_succ hu]
    exact ih h

end Sys2Proof.Machine
end

