-- ==== Sys2Proof/Tests/Slice0.lean ====
section
/-! SUPPORT. Tests on fixed values. Expected results are those of 95_test_vectors.md (the vector is named) or are read off
the rule named; `witness_` theorems show that the hypotheses of an obligation can be met, clause by clause. -/

namespace Sys2Proof.Tests

open Sys2Proof.Machine

/-! ### Helpers -/

/-- The next state of an outcome, if it is one. -/
def after (o : Result) : Option State :=
  match o with
  | .next s => some s
  | .fault _ => none
  | .refused _ => none

/-- A running block at IP 0 with a program and initial registers. -/
def running (opc opd : Byte) (a b c : Word) : State :=
  { State.reset with
    runState := .running, plen := 2, pmem := [(0, opc), (1, opd)], a := a, b := b, c := c }

/-- A block that is not running, whose host is about to make one move. -/
def hostAt (move : HostMove) : State := { State.reset with hostMoves := [move] }

/-- A register, or whatever else is asked, after one step. -/
def next {α : Type} (s : State) (f : State → α) : Option α := (after (step s)).map f

/-- 2^64 - 1, the M of the test vectors. -/
def M : Word := 18446744073709551615

/-! ### Well-formedness: an ill-formed term for each check -/

theorem test_wf_refuses_adv : ¬(Instr.adv (.invalid 6)).wf := by decide
theorem test_wf_refuses_bst : ¬(Instr.bst (.invalid 0)).wf := by decide
theorem test_wf_refuses_out : ¬(Instr.out (.invalid 4)).wf := by decide
theorem test_wf_refuses_bdv : ¬(Instr.bdv (.invalid 5)).wf := by decide
theorem test_wf_refuses_cdv : ¬(Instr.cdv (.invalid 3)).wf := by decide
theorem test_wf_accepts : (Instr.cdv (.invalid 7)).wf ∧ (Instr.bxl 255).wf ∧ (Instr.bxc 255).wf := by decide

/-! ### Decoding: words written out from the opcode table (OPC in bits 15 to 8, OPD in bits 7 to 0) -/

theorem test_decode_adv : decodeTableWord 16 0b0000000000000110 = some (.adv (.reg .C)) := by decide
theorem test_decode_bxl : decodeTableWord 16 0b0000000110000001 = some (.bxl 129) := by decide
theorem test_decode_bst : decodeTableWord 16 0b0000001000000100 = some (.bst (.reg .A)) := by decide
theorem test_decode_jnz : decodeTableWord 16 0b0000001100001110 = some (.jnz 14) := by decide
theorem test_decode_bxc : decodeTableWord 16 0b0000010000000111 = some (.bxc 7) := by decide
theorem test_decode_out : decodeTableWord 16 0b0000010100000011 = some (.out (.lit 3)) := by decide
theorem test_decode_bdv : decodeTableWord 16 0b0000011000000101 = some (.bdv (.reg .B)) := by decide
theorem test_decode_cdv : decodeTableWord 16 0b0000011100001001 = some (.cdv (.invalid 9)) := by decide
theorem test_decode_rejects_8 : decodeTableWord 16 0b0000100000000000 = none := by decide
theorem test_decode_rejects_255 : decode 255 255 = .error (.invalidOpcode 255) := rfl
theorem test_decode_rejects_lone_byte : decodeBytes [9] = .error .truncated := rfl
theorem test_decode_bytes : decodeBytes [0, 1, 5] = .ok (.adv (.lit 1), [5]) := rfl
theorem test_encode : encode (.adv (.lit 3)) = (0, 3) ∧ encode (.out (.reg .A)) = (5, 4) := by decide

/-! ### One step of each instruction -/

/-- S2. -/
theorem test_adv_1 : next (running 0 1 729 0 0) (fun t => (t.a, t.ip, t.steps)) = some (364, 2, 1) := by decide
/-- S8: the amount exceeds the width. -/
theorem test_adv_saturates : next (running 0 5 M M 0) State.a = some 0 := by decide
/-- S13: the old B is the amount. -/
theorem test_bdv_B : next (running 6 5 2024 3 0) (fun t => (t.a, t.b)) = some (2024, 253) := by decide
/-- S18. -/
theorem test_bdv_invalid : next (running 6 7 1 2 0) (fun t => (t.status, t.b, t.ip, t.steps)) = some (0x23, 2, 0, 0) := by
  decide
/-- S15: the old C is the amount. -/
theorem test_cdv_C : next (running 7 6 2024 0 3) (fun t => (t.a, t.c)) = some (2024, 253) := by decide
/-- S20: the amount is the width. -/
theorem test_cdv_width : next (running 7 6 M 0 64) (fun t => (t.a, t.c)) = some (M, 0) := by decide
/-- LG3. -/
theorem test_bxl_255 : next (running 1 255 0 M 0) State.b = some 18446744073709551360 := by decide
/-- LG4. -/
theorem test_bxl_7 : next (running 1 7 0 7 0) State.b = some 0 := by decide
/-- LG8. -/
theorem test_bst_B : next (running 2 5 0 13 0) State.b = some 5 := by decide
/-- LG10. -/
theorem test_bst_invalid : next (running 2 7 0 99 0) (fun t => (t.status, t.b)) = some (0x23, 99) := by decide
/-- LG14: the operand byte 7 is ignored. -/
theorem test_bxc_ignores : next (running 4 7 0 1 2) (fun t => (t.b, t.c, t.runState)) = some (3, 2, .running) := by decide
/-- LG11. -/
theorem test_bxc : next (running 4 0 0 3 253) State.b = some 254 := by decide
/-- JZ4: taken, unchecked. -/
theorem test_jnz_taken : next (running 3 255 1 0 0) (fun t => (t.ip, t.steps)) = some (255, 1) := by decide
/-- JZ1. -/
theorem test_jnz_not_taken : next (running 3 0 0 0 0) (fun t => (t.ip, t.steps)) = some (2, 1) := by decide
/-- O4. -/
theorem test_out_B : next (running 5 5 0 M 0) (fun t => (t.tlen, t.tapeEntry 0, t.ip)) = some (1, 7, 2) := by decide
/-- O7, its last step: two entries in a tape of two. -/
theorem test_out_full :
    next { running 5 1 1 0 0 with tlen := 2, steps := 4, tape := [(0, 1), (1, 1)], params := ⟨2, 16, 100, 16⟩ }
      (fun t => (t.status, t.emitted, t.ip, t.steps)) = some (0x43, [1, 1], 0, 4) := by decide

/-! ### The step around an instruction -/

/-- DP2: the illegal byte is never decoded. -/
theorem test_halt_on_truncation : next { running 9 0 0 0 0 with plen := 1 } (fun t => (t.status, t.ip)) = some (0x02, 0) := by
  decide
/-- DP3. -/
theorem test_invalid_opcode : next (running 8 0 0 0 0) (fun t => (t.status, t.ip, t.steps)) = some (0x13, 0, 0) := by decide
/-- DP6, its last step. -/
theorem test_step_cap : next { running 3 0 1 0 0 with steps := 5, params := ⟨100, 16, 5, 16⟩ } State.status = some 0x33 := by
  decide
/-- JZ6: an instruction at an odd address. -/
theorem test_odd_address :
    next { running 3 1 1 0 0 with plen := 5, ip := 1, steps := 1, pmem := [(0, 3), (1, 1), (2, 5), (3, 0), (4, 0)] }
      (fun t => (t.b, t.ip)) = some (5, 3) := by decide
theorem test_fetch_word_runs : next (State.reset.withFetchWord 16 0x0107) State.b = some 7 := by decide

/-! ### The host -/

/-- HV1. -/
theorem test_reset_reads_zero : State.reset.status = 0 ∧ State.reset.hostRegister 7 = 0 ∧ State.reset.hostRegister 0 = 0 := by
  decide
/-- HV3: a write while RUNNING is ignored. -/
theorem test_write_while_running_ignored :
    next { running 3 0 1 0 0 with initA := 1, hostMoves := [.writeRegister 0 0] } State.initA = some 1 := by decide
theorem test_pmem_write_while_running_ignored :
    next { running 3 0 1 0 0 with hostMoves := [.writePmem 1 2] } (fun t => t.pmemByte 1) = some 0 := by decide
/-- HV9. -/
theorem test_plen_too_large_ignored : next (hostAt (.writeRegister 7 257)) State.plen = some 0 := by decide
theorem test_plen_capacity : next (hostAt (.writeRegister 7 256)) State.plen = some 256 := by decide
/-- HV10. -/
theorem test_reserved_register_reads_zero : next (hostAt (.readRegister 12)) State.reply = some (some 0) := by decide
/-- HV5. -/
theorem test_status_and_pmem_after_fault :
    next { running 8 0 0 0 0 with runState := .faulted, cause := 1, hostMoves := [.readRegister 8] } State.reply =
        some (some 0x13) ∧
      next { running 8 0 0 0 0 with runState := .faulted, cause := 1, hostMoves := [.readPmem 0] } State.reply =
        some (some 8) := by decide
/-- HV11. -/
theorem test_start_while_running_ignored :
    next { running 3 0 1 0 0 with steps := 3, hostMoves := [.start] } (fun t => (t.a, t.steps, t.runState)) =
      some (1, 3, .running) := by decide
theorem test_start : next { hostAt .start with initB := 9, tlen := 4 } (fun t => (t.b, t.tlen, t.status)) = some (9, 0, 1) := by
  decide
theorem test_reset_abandons_a_run :
    next { running 3 0 1 0 0 with steps := 3, hostMoves := [.reset] } (fun t => (t.a, t.plen, t.status, t.steps)) =
      some (0, 0, 0, 0) := by decide

/-! ### Assembler text (R81): the assembly column of 95_test_vectors.md -/

theorem test_assemble_comment :
    assemble ['a', 'd', 'v', ' ', '1', ' ', ' ', ';', ' ', 'x'] = some (0, 1) := by decide
theorem test_disassemble_pair : disassemble 8 0 = ['.', 'p', 'a', 'i', 'r', ' ', '8', ',', '0'] := by decide
theorem test_disassemble_illegal_operand : disassemble 0 200 = ['a', 'd', 'v', ' ', '#', '2', '0', '0'] := by decide
/-- R82's example. -/
theorem test_program_text : programText [0, 1, 5] = ['0', ',', '1', ',', '5'] := by decide

/-! ### Witnesses: the hypotheses of the obligations can be met -/

/-- A state at the edge of a small tape and a small step limit. -/
def edge (tlen steps : Nat) : State :=
  { running 5 1 0 0 0 with
    tlen := tlen, steps := steps, tape := (List.range tlen).map fun i => (i, 1), params := ⟨2, 2, 2, 2⟩ }

/-- A host about to make the move, and a run in progress. -/
def busy (move : HostMove) : State := { running 3 0 1 0 0 with hostMoves := [move] }

theorem witness_DecodeOfEncodeIsIdentity : (Instr.adv (.invalid 7)).wf ∧ (Instr.out (.invalid 255)).wf ∧ (Instr.jnz 0).wf := by
  decide

theorem witness_EncodeOfDecodeIsIdentity : decode 0 6 = .ok (.adv (.reg .C)) ∧ decode 7 255 = .ok (.cdv (.invalid 255)) :=
  ⟨rfl, rfl⟩

theorem witness_OpcodeByteSelectsTheInstruction :
    (8 ≤ (8 : Byte).toNat ∧ (running 8 0 0 0 0).Ready ∧ (running 8 0 0 0 0).plen.toNat ≤ 256 ∧
      (running 8 0 0 0 0).ip.toNat + 1 < (running 8 0 0 0 0).plen.toNat ∧
      (running 8 0 0 0 0).steps ≠ (running 8 0 0 0 0).params.stepLimit ∧ (running 8 0 0 0 0).pmemByte 0 = 8) ∧
      8 ≤ (255 : Byte).toNat ∧ (running 255 0 0 0 0).pmemByte 0 = 255 := by decide

/-- Also for InvalidOperandOnlyFromComboInstructions and the shift, bst and out statements: the operand ranges. -/
theorem witness_ComboOperandDenotesItsTableValue :
    (0 : Byte).toNat ≤ 3 ∧ (3 : Byte).toNat ≤ 3 ∧ (6 : Byte).toNat ≤ 6 ∧ 7 ≤ (7 : Byte).toNat ∧ 7 ≤ (255 : Byte).toNat := by
  decide

theorem witness_ShiftRightIsFloorDivision : 64 ≤ (64 : Word).toNat ∧ 64 ≤ M.toNat := by decide

/-- adv, bdv and cdv have the same hypotheses. -/
theorem witness_AdvShiftsAIntoA :
    ((6 : Byte).toNat ≤ 6 ∧ comboValue (running 0 6 5 0 0) 6 = 0) ∧ ((0 : Byte).toNat ≤ 6 ∧ comboValue (running 0 0 5 0 0) 0 = 0) ∧
      ((5 : Byte).toNat ≤ 6 ∧ 64 ≤ comboValue (running 0 5 5 64 0) 5) ∧ 7 ≤ (7 : Byte).toNat := by decide

theorem witness_BdvShiftsAIntoB :
    ((6 : Byte).toNat ≤ 6 ∧ comboValue (running 6 6 5 0 0) 6 = 0) ∧
      ((5 : Byte).toNat ≤ 6 ∧ 64 ≤ comboValue (running 6 5 5 64 0) 5) ∧ 7 ≤ (7 : Byte).toNat := by decide

theorem witness_CdvShiftsAIntoC :
    ((6 : Byte).toNat ≤ 6 ∧ comboValue (running 7 6 5 0 0) 6 = 0) ∧
      ((5 : Byte).toNat ≤ 6 ∧ 64 ≤ comboValue (running 7 5 5 64 0) 5) ∧ 7 ≤ (7 : Byte).toNat := by decide

theorem witness_BstTakesTheComboModuloEight : (6 : Byte).toNat ≤ 6 ∧ 7 ≤ (7 : Byte).toNat := by decide

theorem witness_BxlXorsBWithTheLiteral : ∃ k : Byte, k = 0 := ⟨0, rfl⟩

theorem witness_BxcXorsBWithCAndIgnoresItsOperand :
    (running 4 0 0 5 0).c = 0 ∧ (running 4 0 0 12 12).b = (running 4 0 0 12 12).c := by decide

theorem witness_JnzJumpsExactlyWhenAIsNotZero :
    (running 3 0 1 0 0).a ≠ 0 ∧ (running 3 0 M 0 0).a ≠ 0 ∧ (running 3 0 0 0 0).a = 0 ∧
      (2 : Byte).setWidth 16 = (running 3 2 1 0 0).ip + 2 ∧
      (running 3 0 1 0 0).a ≠ 0 ∧ (0 : Byte).setWidth 16 = (running 3 0 1 0 0).ip := by decide

theorem witness_OutAppendsTheComboModuloEight :
    ((6 : Byte).toNat ≤ 6 ∧ (edge 1 1).tlen < (edge 1 1).params.tapeCap) ∧ 7 ≤ (7 : Byte).toNat ∧
      (6 : Byte).toNat ≤ 6 ∧ (edge 2 2).tlen = (edge 2 2).params.tapeCap := by decide

theorem witness_JumpPastTheEndHaltsAtTheNextStep :
    (running 3 1 1 0 0).Ready ∧ (running 3 1 1 0 0).a ≠ 0 ∧ (running 3 1 1 0 0).plen.toNat ≤ (1 : Byte).toNat + 1 := by decide

theorem witness_EveryInstructionButATakenJnzAdvancesByTwo :
    ((running 1 1 0 0 0).Ready ∧ (after (exec (.bxl 1) (running 1 1 0 0 0))).map State.runState = some .running) ∧
      ((running 3 9 1 0 0).Ready ∧ (after (exec (.jnz 9) (running 3 9 1 0 0))).map State.runState = some .running ∧
        (running 3 9 1 0 0).a ≠ 0) ∧
      (after (exec (.jnz 9) (running 3 9 0 0 0))).map State.runState = some .running ∧ (running 3 9 0 0 0).a = 0 := by decide

theorem witness_OnlyTheNamedInstructionsWrite :
    (after (exec (.adv (.lit 1)) (running 0 1 4 0 0))).map State.a = some 2 ∧
      (after (exec (.bxl 1) (running 1 1 0 0 0))).map State.b = some 1 ∧
      (after (exec (.cdv (.lit 1)) (running 7 1 4 0 0))).map State.c = some 2 ∧
      (after (exec (.out (.lit 1)) (running 5 1 4 0 0))).map State.tlen = some 1 := by decide

theorem witness_RegisterInstructionsFrame :
    (∃ t, exec (.adv (.lit 1)) (running 0 1 4 0 0) = .next t) ∧ (∃ t, exec (.adv (.invalid 7)) (running 0 7 4 0 0) = .next t) ∧
      (∃ t, exec (.bxc 0) (running 4 0 4 0 0) = .next t) ∧ ∃ t, exec (.cdv (.reg .B)) (running 7 5 4 0 0) = .next t :=
  ⟨⟨_, rfl⟩, ⟨_, rfl⟩, ⟨_, rfl⟩, ⟨_, rfl⟩⟩

theorem witness_OutFrame :
    (∃ t, exec (.out (.lit 1)) (edge 1 1) = .next t) ∧ (∃ t, exec (.out (.invalid 7)) (edge 1 1) = .next t) ∧
      ∃ t, exec (.out (.lit 1)) (edge 2 2) = .next t := ⟨⟨_, rfl⟩, ⟨_, rfl⟩, ⟨_, rfl⟩⟩

/-- At IP 254 of a full program memory, the last address that holds an instruction. -/
def lastPair : State := { running 0 0 0 0 0 with plen := 256, ip := 254, pmem := [(254, 1), (255, 255)] }

theorem witness_StepRunsTheDecodedInstruction :
    (lastPair.Ready ∧ lastPair.plen.toNat ≤ 256 ∧ lastPair.ip.toNat + 1 < lastPair.plen.toNat ∧
      lastPair.steps ≠ lastPair.params.stepLimit) ∧
      decode (lastPair.pmemByte 254) (lastPair.pmemByte 255) = .ok (.bxl 255) := ⟨by decide, rfl⟩

theorem witness_HaltTestEndsTheRun :
    ((running 0 0 0 0 0).Ready ∧ { running 0 0 0 0 0 with ip := 1 }.plen.toNat ≤ { running 0 0 0 0 0 with ip := 1 }.ip.toNat + 1) ∧
      { running 0 0 0 0 0 with plen := 0 }.Ready ∧
      { running 0 0 0 0 0 with plen := 0 }.plen.toNat ≤ { running 0 0 0 0 0 with plen := 0 }.ip.toNat + 1 := by decide

theorem witness_StepCapRaisesExecutionLimitExceeded :
    ((edge 0 2).Ready ∧ (edge 0 2).steps = (edge 0 2).params.stepLimit ∧ (edge 0 2).ip.toNat + 1 < (edge 0 2).plen.toNat) ∧
      { edge 0 2 with ip := 2 }.Ready ∧ { edge 0 2 with ip := 2 }.steps = { edge 0 2 with ip := 2 }.params.stepLimit ∧
      { edge 0 2 with ip := 2 }.plen.toNat ≤ { edge 0 2 with ip := 2 }.ip.toNat + 1 := by decide

theorem witness_InvalidOperandOnlyFromComboInstructions :
    7 ≤ (7 : Byte).toNat ∧ (6 : Byte).toNat ≤ 6 ∧ (running 0 6 1 1 1).Ready ∧
      (after (exec (.adv (Combo.ofByte 6)) (running 0 6 1 1 1))).isSome = true := by decide

theorem witness_TapeOverflowNeedsASmallTape :
    ((edge 2 2).Inv ∧ (edge 2 2).Ready ∧ (6 : Byte).toNat ≤ 6 ∧ (edge 2 2).tlen = (edge 2 2).params.tapeCap) ∧
      (edge 1 1).Inv ∧ (edge 1 1).Ready ∧ (edge 1 1).params.stepLimit ≤ (edge 1 1).params.tapeCap ∧
      (edge 1 1).steps < (edge 1 1).params.stepLimit ∧ (after (step (edge 1 1))).isSome = true :=
  ⟨⟨by decide, by decide⟩, by decide, by decide⟩

/-- A full tape of two entries, two instructions completed, a step limit of three. -/
def full (opc opd : Byte) : State := { edge 2 2 with pmem := [(0, opc), (1, opd)], params := ⟨2, 2, 3, 2⟩ }

/-- One state for each event of R157, in its order, each also meeting the conditions of the events after it. -/
theorem witness_StepReportsTheFirstEventThatApplies :
    ({ edge 2 2 with ip := 1 }.Inv ∧ { edge 2 2 with ip := 1 }.Ready) ∧ ((edge 2 2).Inv ∧ (edge 2 2).Ready) ∧
      ((full 8 7).Inv ∧ (full 8 7).Ready) ∧ ((full 5 7).Inv ∧ (full 5 7).Ready) ∧
      ((full 5 6).Inv ∧ (full 5 6).Ready) ∧ (full 1 0).Inv ∧ (full 1 0).Ready :=
  ⟨⟨by decide, by decide⟩, ⟨by decide, by decide⟩, ⟨by decide, by decide⟩, ⟨by decide, by decide⟩,
    ⟨by decide, by decide⟩, by decide, by decide⟩

/-- R157: in the states of the witness, the event that comes first is the one reported. -/
theorem test_first_event :
    next { edge 2 2 with ip := 1 } State.status = some 0x02 ∧ next (edge 2 2) State.status = some 0x33 ∧
      next (full 8 7) State.status = some 0x13 ∧ next (full 5 7) State.status = some 0x23 ∧
      next (full 5 6) State.status = some 0x43 ∧ next (full 1 0) State.status = some 0x01 := by decide

theorem witness_FaultsArePreciseAndFinal :
    (running 8 0 0 0 0).Inv ∧ (running 8 0 0 0 0).Ready ∧ next (running 8 0 0 0 0) State.runState = some .faulted := by decide

theorem witness_StepsCountsCompletedInstructions :
    ((running 1 0 0 0 0).Ready ∧ next (running 1 0 0 0 0) State.runState = some .running) ∧
      (running 8 0 0 0 0).Ready ∧ next (running 8 0 0 0 0) State.runState = some .faulted := by decide

theorem witness_IpNeverWrapsAround :
    lastPair.Inv ∧ lastPair.Ready ∧ lastPair.ip.toNat + 1 < lastPair.plen.toNat ∧ next lastPair State.ip = some 256 := by decide

theorem witness_NoStepOutsideRunning :
    (State.reset.runState ≠ .running ∧ State.reset.cause.toNat ≤ 4 ∧ State.reset.hostMoves = []) ∧
      (hostAt .wait).runState ≠ .running ∧ (hostAt .wait).cause.toNat ≤ 4 ∧ (hostAt .wait).hostMoves = .wait :: [] := by decide

theorem witness_WaitingHostDoesNotChangeTheStep :
    (running 1 7 0 0 0).hostMoves = [] ∧ (after (step (running 1 7 0 0 0))).isSome = true := by decide

theorem witness_ResetSetsEveryRegister :
    (busy .reset).cause.toNat ≤ 4 ∧ (busy .reset).hostMoves = .reset :: [] ∧ (busy .reset).runState = .running := by decide

theorem witness_ResetLeavesMemoriesFree :
    (busy .reset).hostMoves = .reset :: [] ∧ ∃ t, step (busy .reset) = .next t := ⟨rfl, _, rfl⟩

theorem witness_StartBeginsAFreshRun :
    ((hostAt .start).cause.toNat ≤ 4 ∧ (hostAt .start).hostMoves = .start :: [] ∧ (hostAt .start).runState ≠ .running) ∧
      (busy .start).hostMoves = .start :: [] ∧ (busy .start).runState = .running := by decide

theorem witness_HostRegisterWrite :
    ((hostAt (.writeRegister 7 256)).cause.toNat ≤ 4 ∧ (hostAt (.writeRegister 7 256)).runState ≠ .running ∧
      (hostAt (.writeRegister 7 256)).hostMoves = .writeRegister 7 256 :: []) ∧
      (hostAt (.writeRegister 7 257)).hostMoves = .writeRegister 7 257 :: [] ∧
      (hostAt (.writeRegister 3 1)).hostMoves = .writeRegister 3 1 :: [] ∧
      (busy (.writeRegister 0 1)).runState = .running ∧ (busy (.writeRegister 0 1)).hostMoves = .writeRegister 0 1 :: [] := by
  decide

theorem witness_HostProgramMemoryAccess :
    ((hostAt (.writePmem 255 1)).cause.toNat ≤ 4 ∧ (hostAt (.writePmem 255 1)).hostMoves = .writePmem 255 1 :: [] ∧
      (hostAt (.writePmem 255 1)).runState ≠ .running) ∧
      (hostAt (.writePmem 256 1)).hostMoves = .writePmem 256 1 :: [] ∧
      (hostAt (.readPmem 255)).hostMoves = .readPmem 255 :: [] ∧ (hostAt (.readPmem 256)).hostMoves = .readPmem 256 :: [] ∧
      (busy (.readPmem 0)).hostMoves = .readPmem 0 :: [] ∧ (busy (.readPmem 0)).runState = .running := by decide

theorem witness_HostRegisterRead :
    ((hostAt (.readRegister 15)).cause.toNat ≤ 4 ∧ (hostAt (.readRegister 15)).hostMoves = .readRegister 15 :: [] ∧
      (hostAt (.readRegister 15)).runState ≠ .running) ∧
      ((busy (.readRegister 8)).hostMoves = .readRegister 8 :: [] ∧ (busy (.readRegister 8)).runState = .running) ∧
      (busy (.readRegister 10)).hostMoves = .readRegister 10 :: [] ∧ (busy (.readRegister 10)).runState = .running := by decide

theorem witness_HostTapeRead :
    ({ edge 2 2 with runState := .halted, hostMoves := [.readTape 1] }.hostMoves = .readTape 1 :: [] ∧
      1 < { edge 2 2 with runState := .halted, hostMoves := [.readTape 1] }.tlen) ∧
      { edge 2 2 with runState := .halted, hostMoves := [.readTape 2] }.tlen ≤ 2 ∧
      (busy (.readTape 0)).runState = .running ∧ (busy (.readTape 0)).cause.toNat ≤ 4 ∧
      (busy (.readTape 0)).hostMoves = .readTape 0 :: [] := by decide

theorem witness_StatusLayout :
    (State.reset.Inv ∧ State.reset.runState = .idle) ∧ ((running 0 0 0 0 0).Inv ∧ (running 0 0 0 0 0).runState = .running) ∧
      { running 0 0 0 0 0 with runState := .halted }.Inv ∧ { running 0 0 0 0 0 with runState := .faulted, cause := 1 }.Inv ∧
      { running 0 0 0 0 0 with runState := .faulted, cause := 4 }.Inv :=
  ⟨⟨by decide, by decide⟩, ⟨by decide, by decide⟩, by decide, by decide, by decide⟩

theorem witness_HostCannotWriteTheRegisterFile :
    ((hostAt (.writeRegister 3 9)).hostMoves = .writeRegister 3 9 :: [] ∧ (after (step (hostAt (.writeRegister 3 9)))).isSome = true) ∧
      (busy .start).hostMoves = .start :: [] ∧ (busy .start).runState = .running ∧ (after (step (busy .start))).isSome = true := by
  decide

theorem witness_StateChangesOnlyAsTheTableSays :
    next (hostAt .start) State.runState = some .running ∧ next (running 1 0 0 0 0) State.runState = some .running ∧
      next { running 1 0 0 0 0 with ip := 2 } State.runState = some .halted ∧
      next (running 8 0 0 0 0) State.runState = some .faulted ∧ next (busy .reset) State.runState = some .idle := by decide

theorem witness_ProgramDoesNotChangeDuringARun :
    (busy (.writePmem 0 9)).runState = .running ∧ (busy (.writePmem 0 9)).hostMoves.head? ≠ some .reset ∧
      (after (step (busy (.writePmem 0 9)))).isSome = true := by decide

theorem witness_TapeIsAppendOnly :
    (after (exec (.out (.lit 1)) (edge 1 1))).isSome = true ∧ (hostAt .wait).runState ≠ .running ∧
      (hostAt .wait).hostMoves.head? ≠ some .start ∧ (hostAt .wait).hostMoves.head? ≠ some .reset ∧
      (after (step (hostAt .wait))).isSome = true := by decide

theorem witness_ResultIsKeptUntilStartOrReset :
    { edge 2 2 with runState := .halted, hostMoves := [.writeRegister 0 5] }.runState ≠ .running ∧
      (after (step { edge 2 2 with runState := .halted, hostMoves := [.writeRegister 0 5] })).isSome = true := by decide

theorem witness_LoadingSequenceStartsTheProgram :
    (State.reset.cause.toNat ≤ 4 ∧ ([] : List Byte).length ≤ 256 ∧
      { State.reset with hostMoves := runMoves [0, 1] 729 0 0 }.hostMoves = runMoves [0, 1] 729 0 0) ∧
      (List.replicate 256 (1 : Byte)).length ≤ 256 := ⟨by decide, Nat.le_of_eq List.length_replicate⟩

theorem witness_EveryStepKeepsTheInvariant :
    (running 5 4 9 0 0).Inv ∧ (after (step (running 5 4 9 0 0))).isSome = true ∧ (hostAt (.writePmem 255 7)).Inv ∧
      (after (step (hostAt (.writePmem 255 7)))).isSome = true := by decide

theorem witness_EveryInvariantStateHasANextState : (edge 2 2).Inv := by decide

theorem witness_EveryRunEndsWithinTheStepBound :
    ((hostAt .start).Inv ∧ (hostAt .start).runState ≠ .running ∧ (hostAt .start).hostMoves = [.start]) ∧
      (running 1 1 0 0 0).Ready ∧ next (running 1 1 0 0 0) State.runState = some .running := by decide

/-- A second machine that differs in everything but the inputs of the run. -/
def other : State :=
  { hostAt .start with
    a := 5, ip := 6, tlen := 1, tape := [(0, 3)], steps := 4, runState := .halted, resets := 0, draws := 9,
    params := { Config.resetParams with stepsW := 20 } }

theorem witness_RunsFromTheSameInputsHaveTheSameResult :
    ((hostAt .start).Inv ∧ other.Inv ∧ (hostAt .start).runState ≠ .running ∧ other.runState ≠ .running ∧
      (hostAt .start).hostMoves = [.start] ∧ other.hostMoves = [.start]) ∧ (hostAt .start).SameRunInputs other :=
  ⟨by decide, rfl, rfl, rfl, rfl, rfl, rfl, fun i h => absurd h (Nat.not_lt_zero i)⟩

theorem witness_ReservedCauseIsRefused :
    4 < { State.reset with cause := 5 }.cause.toNat ∧ 4 < { State.reset with cause := 15 }.cause.toNat := by decide

/-- PLEN beyond PROG_CAP, which no host write gives. -/
def tooLong (ip : IpWord) : State := { running 0 0 0 0 0 with plen := 300, ip := ip }

theorem witness_OutOfBoundsStatesFault :
    ((tooLong 256).Ready ∧ (tooLong 256).ip.toNat + 1 < (tooLong 256).plen.toNat ∧
      (tooLong 256).steps ≠ (tooLong 256).params.stepLimit ∧ 256 ≤ (tooLong 256).ip.toNat) ∧
      (tooLong 255).ip.toNat = 255 ∧ (tooLong 255).ip.toNat + 1 < (tooLong 255).plen.toNat ∧
      (6 : Byte).toNat ≤ 6 ∧ (edge 3 3).params.tapeCap < (edge 3 3).tlen := by decide

end Sys2Proof.Tests
end

/-! ## The invariant `State.Inv` is kept by every step

First what each operation on the state does to the invariant, then what a host move, an instruction, the block and the
machine do, each through the inversion lemmas of Laws/. -/

namespace Sys2Proof.Machine

variable {s t : State}

/-! ### Operations on fields the invariant does not speak of -/

theorem State.Inv.writeReg (hi : s.Inv) (r : Reg) (v : Word) : (s.writeReg r v).Inv := by
  cases r <;> exact hi

theorem State.Inv.withHostMoves (hi : s.Inv) (rest : List HostMove) : { s with hostMoves := rest }.Inv := hi

theorem State.Inv.noAnswer (hi : s.Inv) : s.noAnswer.Inv := hi

/-- The form in which Laws/Host.lean says what a host read does. -/
theorem State.Inv.of_read (hi : s.Inv) (h : ∃ r d, t = { s with reply := r, draws := d }) : t.Inv := by
  obtain ⟨_, _, rfl⟩ := h
  exact hi

/-! ### The end of a run -/

/-- The codes of R151 are 1 to 4. -/
theorem FaultCause.code_bounds (e : FaultCause) : 1 ≤ e.code.toNat ∧ e.code.toNat ≤ 4 := by
  cases e <;> decide

theorem State.Inv.raise (hi : s.Inv) (e : FaultCause) : (s.raise e).Inv := by
  obtain ⟨hparams, hplen, ⟨hip, _⟩, hcounters, _, hpmem, htape⟩ := hi
  exact ⟨hparams, hplen, ⟨hip, nofun⟩, hcounters, ⟨fun _ => e.code_bounds, fun hne => absurd rfl hne⟩, hpmem, htape⟩

/-- A run that halts leaves CAUSE at the 0 it has while RUNNING (R33, R91). -/
theorem State.Inv.halt (hi : s.Inv) (hr : s.runState = .running) : s.halt.Inv := by
  obtain ⟨hparams, hplen, ⟨hip, _⟩, hcounters, ⟨_, hcause⟩, hpmem, htape⟩ := hi
  have hcause0 : s.cause = 0 := hcause (by simp [hr])
  exact ⟨hparams, hplen, ⟨hip, nofun⟩, hcounters, ⟨nofun, fun _ => hcause0⟩, hpmem, htape⟩

/-! ### The end of an instruction -/

/-- Below the step cap there is room to count one more instruction (R92, R162). -/
theorem State.Inv.retireAt (hi : s.Inv) (hlimit : ¬s.atLimit) {target : IpWord}
    (htarget : target.toNat ≤ max s.plen.toNat 255) : (s.retireAt target).Inv := by
  obtain ⟨hparams, hplen, _, ⟨hcap, htlen, hsteps⟩, hcause, hpmem, htape⟩ := hi
  have hip : target.toNat ≤ max Config.progCap 255 := htarget.trans (max_le_max_right 255 hplen)
  have hroom : s.steps + 1 ≤ s.params.stepLimit := Nat.lt_of_le_of_ne hsteps hlimit
  exact ⟨hparams, hplen, ⟨hip, fun _ => htarget⟩, ⟨hcap, Nat.le_succ_of_le htlen, hroom⟩, hcause, hpmem, htape⟩

/-- Where the halt test fails, IP + 2 is at most PLEN, and the 16-bit sum does not wrap (R25). -/
theorem State.toNat_ip_add_two (hplen : s.PlenOk) (hend : ¬s.atEnd) :
    (s.ip + 2).toNat = s.ip.toNat + 2 ∧ s.ip.toNat + 2 ≤ s.plen.toNat := by
  have hlt : s.ip.toNat + 2 ≤ s.plen.toNat := Nat.not_le.mp hend
  have hcap : s.plen.toNat ≤ 256 := hplen
  exact ⟨by bv_omega, hlt⟩

theorem State.Inv.advance (hi : s.Inv) (hend : ¬s.atEnd) (hlimit : ¬s.atLimit) : s.advance.Inv := by
  have ⟨_, hplen, _⟩ := hi
  obtain ⟨hsum, hle⟩ := State.toNat_ip_add_two hplen hend
  exact hi.retireAt hlimit (hsum ▸ le_max_of_le_left hle)

/-- The target of a jnz is one byte, so it is at most 255 whatever PLEN is (R25, R131). -/
theorem State.Inv.jump (hi : s.Inv) (hlimit : ¬s.atLimit) (k : Byte) : (s.retireAt (k.setWidth 16)).Inv := by
  have hk : (k.setWidth 16).toNat ≤ 255 := by
    rw [BitVec.toNat_setWidth_of_le (by decide)]
    exact Nat.le_of_lt_succ k.isLt
  exact hi.retireAt hlimit (le_max_of_le_right hk)

theorem State.advance_writeReg (s : State) (r : Reg) (v : Word) :
    (s.writeReg r v).advance = s.advance.writeReg r v := by
  cases r <;> rfl

theorem State.advance_tapeAppend (s : State) (v : Digit) : (s.tapeAppend v).advance = s.advance.tapeAppend v := rfl

/-! ### The two memories -/

/-- After an append the entries below the new TLEN are those below the old one and the appended one (R26, R140). -/
theorem State.tapeAppend_tapeOk (htape : s.TapeOk) (hroom : s.tlen < s.params.tapeCap) (v : Digit) :
    (s.tapeAppend v).TapeOk := by
  obtain ⟨hwf, hbelow, hwritten⟩ := htape
  refine ⟨State.tapeAppend_wf hwf v, Memory.below_write hbelow hroom v, fun i hlt => ?_⟩
  rw [State.tapeAppend_tape]
  rcases Nat.lt_succ_iff_lt_or_eq.mp hlt with hold | rfl
  · rw [Memory.read_write_other s.tape v (Nat.ne_of_lt hold)]
    exact hwritten i hold
  · rw [Memory.read_write_same]
    rfl

/-- An append needs a free entry, and an instruction already counted for it: TLEN stays at most STEPS (R155). -/
theorem State.Inv.tapeAppend (hi : s.Inv) (hroom : s.tlen < s.params.tapeCap) (hcounted : s.tlen < s.steps)
    (v : Digit) : (s.tapeAppend v).Inv := by
  obtain ⟨hparams, hplen, hip, ⟨_, _, hsteps⟩, hcause, hpmem, htape⟩ := hi
  exact ⟨hparams, hplen, hip, ⟨hroom, hcounted, hsteps⟩, hcause, hpmem, State.tapeAppend_tapeOk htape hroom v⟩

theorem State.Inv.writePmem (hi : s.Inv) {a : Nat} (ha : a < Config.progCap) (b : Byte) : (s.writePmem a b).Inv := by
  obtain ⟨hparams, hplen, hip, hcounters, hcause, ⟨hwf, hbelow⟩, htape⟩ := hi
  exact ⟨hparams, hplen, hip, hcounters, hcause, ⟨State.writePmem_wf hwf a b, Memory.below_write hbelow ha b⟩, htape⟩

/-! ### The host -/

/-- Outside a run IP is not bounded by PLEN, so PLEN may take any legal value (R28, R35). -/
theorem State.Inv.withPlen (hi : s.Inv) (hr : s.runState ≠ .running) {v : Nat} (hv : v ≤ Config.progCap) :
    { s with plen := BitVec.ofNat 16 v }.Inv := by
  obtain ⟨hparams, _, ⟨hip, _⟩, hcounters, hcause, hpmem, htape⟩ := hi
  have hplen : (BitVec.ofNat 16 v).toNat ≤ Config.progCap := by
    rw [BitVec.toNat_ofNat]
    exact (Nat.mod_le v _).trans hv
  exact ⟨hparams, hplen, ⟨hip, fun hrun => absurd hrun hr⟩, hcounters, hcause, hpmem, htape⟩

theorem State.Inv.hostWriteRegister (hi : s.Inv) (n : BitVec 4) (v : Nat) : (s.hostWriteRegister n v).Inv := by
  rcases s.hostWriteRegister_cases n v with h | ⟨hr, h | h | h | ⟨hv, h⟩⟩ <;> rw [h]
  case inr.inr.inr.inr => exact hi.withPlen hr hv
  all_goals exact hi

theorem State.Inv.hostWritePmem (hi : s.Inv) (a : Nat) (b : Byte) : (s.hostWritePmem a b).Inv := by
  rcases s.hostWritePmem_cases a b with h | ⟨_, ha, h⟩ <;> rw [h]
  · exact hi
  · exact hi.writePmem ha b

/-- START empties the tape by its length alone: no entry below TLEN = 0 has to be written (R182). -/
theorem State.Inv.start (hi : s.Inv) : s.start.Inv := by
  by_cases hr : s.runState = .running
  · rw [s.start_of_running hr]
    exact hi
  · rw [s.start_of_not_running hr]
    obtain ⟨hparams, hplen, _, _, _, hpmem, ⟨hwf, hbelow, _⟩⟩ := hi
    exact ⟨hparams, hplen, ⟨Nat.zero_le _, fun _ => Nat.zero_le _⟩, ⟨Nat.zero_le _, Nat.le_refl 0, Nat.zero_le _⟩,
      ⟨nofun, fun _ => rfl⟩, hpmem, ⟨hwf, hbelow, nofun⟩⟩

/-- Of the state before it, RESET needs the parameters only (R180). -/
theorem State.hostReset_inv (hparams : s.ParamsOk) : s.hostReset.Inv :=
  ⟨hparams, Nat.zero_le _, ⟨Nat.zero_le _, nofun⟩, ⟨Nat.zero_le _, Nat.le_refl 0, Nat.zero_le _⟩,
    ⟨nofun, fun _ => rfl⟩, ⟨.nil, nofun⟩, ⟨.nil, nofun, nofun⟩⟩

theorem State.Inv.hostMove (hi : s.Inv) (move : HostMove) : (s.hostMove move).Inv := by
  cases move with
  | wait => exact hi
  | writeRegister n v => exact (hi.hostWriteRegister n v).noAnswer
  | writePmem a b => exact (hi.hostWritePmem a b).noAnswer
  | readRegister n => exact hi.of_read (s.hostReadRegister_eq n)
  | readPmem a => exact hi.of_read (s.hostReadPmem_eq a)
  | readTape i => exact hi.of_read (s.hostReadTape_eq i)
  | start => exact hi.start.noAnswer
  | reset =>
    obtain ⟨hparams, _⟩ := hi
    exact (State.hostReset_inv hparams).noAnswer

/-! ### The block and the machine -/

/-- An instruction executed where neither the halt test nor the step cap stops it keeps the invariant. -/
theorem exec_keeps_inv {i : Instr} (hi : s.Inv) (hend : ¬s.atEnd) (hlimit : ¬s.atLimit) (h : exec i s = .next t) :
    t.Inv := by
  have hadvance : s.advance.Inv := hi.advance hend hlimit
  rcases exec_next_cases h with ⟨r, v, _, rfl⟩ | ⟨k, _, _, rfl⟩ | ⟨_, _, _, rfl⟩ | ⟨_, v, _, hroom, rfl⟩ |
    ⟨_, _, _, rfl⟩ | ⟨_, rfl⟩
  · rw [State.advance_writeReg]
    exact hadvance.writeReg r v
  · exact hi.jump hlimit k
  · exact hadvance
  · obtain ⟨_, _, _, ⟨_, htlen, _⟩, _⟩ := hi
    rw [State.advance_tapeAppend]
    exact hadvance.tapeAppend hroom (Nat.lt_succ_of_le htlen) v
  · exact hi.raise .tapeOverflow
  · exact hi.raise .invalidOperand

theorem blockStep_keeps_inv (hi : s.Inv) (h : blockStep s = .next t) : t.Inv := by
  rcases blockStep_next_cases h with ⟨_, rfl⟩ | ⟨hr, _, rfl⟩ | ⟨_, _, _, rfl⟩ | ⟨_, _, _, _, rfl⟩ |
    ⟨_, hend, hlimit, _, _, hexec⟩
  · exact hi
  · exact hi.halt hr
  · exact hi.raise .executionLimitExceeded
  · exact hi.raise .invalidOpcode
  · exact exec_keeps_inv hi hend hlimit hexec

theorem step_keeps_inv (hi : s.Inv) (h : step s = .next t) : t.Inv := by
  obtain ⟨_, ⟨_, hblock⟩ | ⟨rest, _, hblock⟩ | ⟨move, rest, _, _, rfl⟩⟩ := step_next_cases h
  · exact blockStep_keeps_inv hi hblock
  · exact blockStep_keeps_inv (hi.withHostMoves rest) hblock
  · exact (hi.withHostMoves rest).hostMove move

/-- Settles O49: the case split over who takes the step, the host or the block, is in `step_keeps_inv`. -/
theorem everyStepKeepsTheInvariant : Obligations.EveryStepKeepsTheInvariant :=
  fun _ _ hi h => step_keeps_inv hi h

end Sys2Proof.Machine

/-! ## The frame of an instruction

What an instruction that answers a next state leaves as it was, read off the cases of `exec_next_cases`, one kind of state
after the other: what no instruction writes (R21), the registers (R22), the tape (R27), STATE and CAUSE (R150). -/

namespace Sys2Proof.Machine

variable {i : Instr} {s t : State}

/-! ### What no instruction writes -/

theorem State.SameOutsideInstructions.refl (s : State) : s.SameOutsideInstructions s :=
  ⟨rfl, rfl, rfl, rfl, rfl, rfl, rfl, rfl, rfl, fun _ => rfl⟩

/-- The fields that `SameOutsideInstructions` speaks of are written by none of the operations an instruction is made of. -/
theorem exec_sameOutsideInstructions (h : exec i s = .next t) : s.SameOutsideInstructions t := by
  rcases exec_next_cases h with ⟨r, v, _, rfl⟩ | ⟨_, _, _, rfl⟩ | ⟨_, _, _, rfl⟩ | ⟨_, _, _, _, rfl⟩ |
    ⟨_, _, _, rfl⟩ | ⟨_, rfl⟩
  case inl => cases r <;> exact .refl s
  all_goals exact .refl s

/-! ### The registers -/

@[simp] theorem State.readReg_advance (s : State) (r : Reg) : s.advance.readReg r = s.readReg r := by
  cases r <;> rfl

/-- An instruction changes no register but the one it names (R21, R22). -/
theorem exec_readReg_of_dest_ne {r : Reg} (h : exec i s = .next t) (hdest : Instr.dest i ≠ some r) :
    t.readReg r = s.readReg r := by
  rcases exec_next_cases h with ⟨q, v, hq, rfl⟩ | ⟨_, _, _, rfl⟩ | ⟨_, _, _, rfl⟩ | ⟨_, _, _, _, rfl⟩ |
    ⟨_, _, _, rfl⟩ | ⟨_, rfl⟩
  case inl =>
    have hne : r ≠ q := by
      rintro rfl
      exact hdest hq
    rw [State.readReg_advance, State.readReg_writeReg_other s v hne]
  all_goals cases r <;> rfl

theorem exec_dest_of_readReg_ne {r : Reg} (h : exec i s = .next t) (hne : t.readReg r ≠ s.readReg r) :
    Instr.dest i = some r := by
  by_contra hdest
  exact hne (exec_readReg_of_dest_ne h hdest)

theorem Instr.dest_eq_A (h : Instr.dest i = some .A) : ∃ o, i = .adv o := by
  cases i <;> simp_all [Instr.dest]

theorem Instr.dest_eq_B (h : Instr.dest i = some .B) :
    (∃ k, i = .bxl k) ∨ (∃ o, i = .bst o) ∨ (∃ x, i = .bxc x) ∨ ∃ o, i = .bdv o := by
  cases i <;> simp_all [Instr.dest]

theorem Instr.dest_eq_C (h : Instr.dest i = some .C) : ∃ o, i = .cdv o := by
  cases i <;> simp_all [Instr.dest]

/-! ### The tape -/

/-- Everything out can do when it answers a next state (R140). -/
theorem exec_out_next_cases {o : Combo} (h : exec (.out o) s = .next t) :
    (∃ v, s.tlen < s.params.tapeCap ∧ t = (s.tapeAppend v).advance) ∨
      (s.tlen = s.params.tapeCap ∧ t = s.raise .tapeOverflow) ∨ t = s.raise .invalidOperand := by
  rcases exec_next_cases h with ⟨_, _, hdest, _⟩ | ⟨_, hi, _⟩ | ⟨_, hi, _⟩ | ⟨_, v, _, hroom, ht⟩ |
    ⟨_, _, hfull, ht⟩ | ⟨_, ht⟩
  · exact absurd hdest nofun
  · exact absurd hi nofun
  · exact absurd hi nofun
  · exact .inl ⟨v, hroom, ht⟩
  · exact .inr (.inl ⟨hfull, ht⟩)
  · exact .inr (.inr ht)

/-- Only out touches the tape (R27). -/
theorem exec_tape_of_not_out (h : exec i s = .next t) (hout : ∀ o, i ≠ .out o) :
    t.tlen = s.tlen ∧ ∀ j, t.tapeEntry j = s.tapeEntry j := by
  rcases exec_next_cases h with ⟨r, v, _, rfl⟩ | ⟨_, _, _, rfl⟩ | ⟨_, _, _, rfl⟩ | ⟨o, _, hi, _⟩ |
    ⟨o, hi, _⟩ | ⟨_, rfl⟩
  case inl => cases r <;> exact ⟨rfl, fun _ => rfl⟩
  case inr.inr.inr.inl => exact absurd hi (hout o)
  case inr.inr.inr.inr.inl => exact absurd hi (hout o)
  all_goals exact ⟨rfl, fun _ => rfl⟩

theorem exec_is_out_of_tape_changed (h : exec i s = .next t)
    (hchanged : t.tlen ≠ s.tlen ∨ ∃ j, t.tapeEntry j ≠ s.tapeEntry j) : ∃ o, i = .out o := by
  by_contra hout
  obtain ⟨htlen, hentry⟩ := exec_tape_of_not_out h fun o hi => hout ⟨o, hi⟩
  rcases hchanged with hne | ⟨j, hne⟩
  · exact hne htlen
  · exact hne (hentry j)

/-- An append writes the entry at TLEN, the two faults of out write none (R140, R150). -/
theorem exec_out_tapeEntry {o : Combo} (h : exec (.out o) s = .next t) {j : Nat} (hj : j ≠ s.tlen) :
    t.tapeEntry j = s.tapeEntry j := by
  rcases exec_out_next_cases h with ⟨v, _, rfl⟩ | ⟨_, rfl⟩ | rfl
  · exact State.tapeEntry_tapeAppend_other s v hj
  · rfl
  · rfl

theorem exec_out_tlen_le {o : Combo} (h : exec (.out o) s = .next t) : s.tlen ≤ t.tlen := by
  rcases exec_out_next_cases h with ⟨v, _, rfl⟩ | ⟨_, rfl⟩ | rfl
  · exact Nat.le_succ s.tlen
  · exact Nat.le_refl s.tlen
  · exact Nat.le_refl s.tlen

/-- The tape below TLEN stands, and TLEN does not go down (R27). -/
theorem exec_tape_below (h : exec i s = .next t) :
    (∀ j < s.tlen, t.tapeEntry j = s.tapeEntry j) ∧ s.tlen ≤ t.tlen := by
  by_cases hout : ∃ o, i = .out o
  · obtain ⟨o, rfl⟩ := hout
    exact ⟨fun _ hj => exec_out_tapeEntry h (Nat.ne_of_lt hj), exec_out_tlen_le h⟩
  · obtain ⟨htlen, hentry⟩ := exec_tape_of_not_out h fun o hi => hout ⟨o, hi⟩
    exact ⟨fun j _ => hentry j, htlen.ge⟩

/-! ### STATE and CAUSE -/

/-- An instruction leaves STATE and CAUSE, or raises a fault and changes nothing else (R150); the fault of an instruction
other than out is InvalidOperand. -/
theorem exec_runControl (h : exec i s = .next t) :
    (t.runState = s.runState ∧ t.cause = s.cause) ∨ t = s.raise .invalidOperand ∨
      (∃ o, i = .out o) ∧ t = s.raise .tapeOverflow := by
  rcases exec_next_cases h with ⟨r, v, _, rfl⟩ | ⟨_, _, _, rfl⟩ | ⟨_, _, _, rfl⟩ | ⟨_, _, _, _, rfl⟩ |
    ⟨o, hi, _, ht⟩ | ⟨_, ht⟩
  · exact .inl (by simp)
  · exact .inl ⟨rfl, rfl⟩
  · exact .inl ⟨rfl, rfl⟩
  · exact .inl ⟨rfl, rfl⟩
  · exact .inr (.inr ⟨⟨o, hi⟩, ht⟩)
  · exact .inr (.inl ht)

/-! ### The frame statements -/

/-- Settles O19, by the register an instruction names and the frame of the tape. -/
theorem onlyTheNamedInstructionsWrite : Obligations.OnlyTheNamedInstructionsWrite := by
  intro i s t h
  have hdest (r : Reg) : t.readReg r ≠ s.readReg r → Instr.dest i = some r := exec_dest_of_readReg_ne h
  exact ⟨fun ha => Instr.dest_eq_A (hdest .A ha), fun hb => Instr.dest_eq_B (hdest .B hb),
    fun hc => Instr.dest_eq_C (hdest .C hc), exec_is_out_of_tape_changed h, exec_sameOutsideInstructions h⟩

/-- Settles O20, by the same frames, read the other way round. -/
theorem registerInstructionsFrame : Obligations.RegisterInstructionsFrame := by
  intro i s t hout h
  have hframe (r : Reg) : Instr.dest i ≠ some r → t.readReg r = s.readReg r := exec_readReg_of_dest_ne h
  obtain ⟨htlen, hentry⟩ := exec_tape_of_not_out h hout
  refine ⟨exec_sameOutsideInstructions h, htlen, hentry, fun hadv => hframe .A fun hd => ?_,
    fun hcdv => hframe .C fun hd => ?_, fun hb => hframe .B ?_, ?_⟩
  · obtain ⟨o, hi⟩ := Instr.dest_eq_A hd
    exact hadv o hi
  · obtain ⟨o, hi⟩ := Instr.dest_eq_C hd
    exact hcdv o hi
  · rcases hb with ⟨_, rfl⟩ | ⟨_, rfl⟩ | ⟨_, rfl⟩ <;> simp [Instr.dest]
  · rcases exec_runControl h with hsame | hraise | ⟨⟨o, hi⟩, _⟩
    · exact .inl hsame
    · exact .inr hraise
    · exact absurd hi (hout o)

/-- Settles O21: out names no register, and it appends or raises one of its two faults. -/
theorem outFrame : Obligations.OutFrame := by
  intro o s t h
  have hframe (r : Reg) : t.readReg r = s.readReg r := exec_readReg_of_dest_ne h nofun
  refine ⟨exec_sameOutsideInstructions h, hframe .A, hframe .B, hframe .C, fun _ hj => exec_out_tapeEntry h hj, ?_⟩
  rcases exec_out_next_cases h with ⟨v, _, rfl⟩ | ⟨_, hfull⟩ | hoperand
  · exact .inl ⟨rfl, rfl, rfl⟩
  · exact .inr (.inr hfull)
  · exact .inr (.inl hoperand)

end Sys2Proof.Machine

/-! ## The frame of a step

The block's step through `blockStep_next_cases`, the machine's step as one of the two agents, block or host. -/

namespace Sys2Proof.Machine

variable {s t : State}

/-! ### The block -/

theorem blockStep_sameOutsideInstructions (h : blockStep s = .next t) : s.SameOutsideInstructions t := by
  rcases blockStep_next_cases h with ⟨_, rfl⟩ | ⟨_, _, rfl⟩ | ⟨_, _, _, rfl⟩ | ⟨_, _, _, _, rfl⟩ |
    ⟨_, _, _, _, _, hexec⟩
  case inr.inr.inr.inr => exact exec_sameOutsideInstructions hexec
  all_goals exact .refl _

/-- A step of the block leaves STATE, halts, or raises a fault (R32). -/
theorem blockStep_runState_cases (h : blockStep s = .next t) :
    t.runState = s.runState ∨ s.runState = .running ∧ (s.atEnd ∧ t = s.halt ∨ ∃ e, t = s.raise e) := by
  rcases blockStep_next_cases h with ⟨_, rfl⟩ | ⟨hr, hend, ht⟩ | ⟨hr, _, _, ht⟩ | ⟨hr, _, _, _, ht⟩ |
    ⟨hr, _, _, _, _, hexec⟩
  · exact .inl rfl
  · exact .inr ⟨hr, .inl ⟨hend, ht⟩⟩
  · exact .inr ⟨hr, .inr ⟨_, ht⟩⟩
  · exact .inr ⟨hr, .inr ⟨_, ht⟩⟩
  · rcases exec_runControl hexec with ⟨hsame, _⟩ | ht | ⟨_, ht⟩
    · exact .inl hsame
    · exact .inr ⟨hr, .inr ⟨_, ht⟩⟩
    · exact .inr ⟨hr, .inr ⟨_, ht⟩⟩

/-! ### The two agents -/

/-- A step is the block's, where the host waits or has no moves, or else a move of the host. -/
theorem step_next_agent (h : step s = .next t) :
    (∃ rest, (s.hostMoves = [] ∨ s.hostMoves.head? = some .wait) ∧ blockStep { s with hostMoves := rest } = .next t) ∨
      ∃ move rest, s.hostMoves = move :: rest ∧ move ≠ .wait ∧ t = { s with hostMoves := rest }.hostMove move := by
  obtain ⟨_, ⟨hnil, hblock⟩ | ⟨rest, hwait, hblock⟩ | hhost⟩ := step_next_cases h
  · have hsame : { s with hostMoves := [] } = s := by rw [← hnil]
    exact .inl ⟨[], .inl hnil, hsame ▸ hblock⟩
  · exact .inl ⟨rest, .inr (by rw [hwait]; rfl), hblock⟩
  · exact .inr hhost

/-- START is ignored while RUNNING (R182). -/
theorem State.hostMove_start_of_running (s : State) (h : s.runState = .running) : s.hostMove .start = s.noAnswer := by
  rw [State.hostMove, s.start_of_running h]

/-! ### IP -/

/-- Settles O30: a step that ends the run leaves IP and PLEN, and after every other step the invariant bounds IP. -/
theorem ipNeverWrapsAround : Obligations.IpNeverWrapsAround := by
  rintro s t hi ⟨hr, _, hmoves⟩ h
  have hinv : t.Inv := step_keeps_inv hi h
  obtain ⟨_, hplen, ⟨_, hip⟩, _⟩ := hi
  obtain ⟨hcause, _⟩ := step_next_cases h
  have hblock : blockStep s = .next t := step_nil hcause hmoves ▸ h
  refine ⟨hip hr, ?_, fun hlt => (State.toNat_ip_add_two hplen (Nat.not_le.mpr hlt)).1⟩
  rcases blockStep_runState_cases hblock with hsame | ⟨_, ⟨_, rfl⟩ | ⟨_, rfl⟩⟩
  · obtain ⟨_, _, ⟨_, hip'⟩, _⟩ := hinv
    exact hip' (hsame.trans hr)
  · exact hip hr
  · exact hip hr

/-! ### The transitions of STATE -/

/-- Settles O43: the block's transitions are those of `blockStep_runState_cases`, the host's are START and RESET. -/
theorem stateChangesOnlyAsTheTableSays : Obligations.StateChangesOnlyAsTheTableSays := by
  intro s t h hne
  rcases step_next_agent h with ⟨rest, hmoves, hblock⟩ | ⟨move, rest, hmoves, _, rfl⟩
  · rcases blockStep_runState_cases hblock with hsame | ⟨hr, ⟨hend, rfl⟩ | ⟨e, rfl⟩⟩
    · exact absurd hsame hne
    · exact .inr (.inl ⟨hr, rfl, hend, hmoves⟩)
    · have hcode : e.code ≠ 0 := by cases e <;> decide
      exact .inr (.inr (.inl ⟨hr, rfl, hcode, hmoves⟩))
  · have hhead : s.hostMoves.head? = some move := by rw [hmoves]; rfl
    by_cases hreset : move = .reset
    · subst hreset
      exact .inr (.inr (.inr ⟨rfl, hhead⟩))
    · by_cases hstart : move = .start
      · subst hstart
        by_cases hr : s.runState = .running
        · rw [State.hostMove_start_of_running { s with hostMoves := rest } hr] at hne
          exact absurd rfl hne
        · refine .inl ⟨hr, ?_, hhead⟩
          rw [State.hostMove, State.start_of_not_running { s with hostMoves := rest } hr]
          rfl
      · obtain ⟨_, _, _, _, _, _, hsame, _⟩ := State.hostMove_frame { s with hostMoves := rest } hstart hreset
        exact absurd hsame hne

/-! ### What stands during a run and after it -/

/-- Settles O44: no instruction writes PLEN or PMEM, and while RUNNING no host move but RESET does. -/
theorem programDoesNotChangeDuringARun : Obligations.ProgramDoesNotChangeDuringARun := by
  intro s t hr hhead h
  rcases step_next_agent h with ⟨rest, _, hblock⟩ | ⟨move, rest, hmoves, _, rfl⟩
  · obtain ⟨hplen, _, _, _, _, _, _, _, _, hpmem⟩ := blockStep_sameOutsideInstructions hblock
    exact ⟨hplen, hpmem⟩
  · have hreset : move ≠ .reset := by
      rintro rfl
      exact hhead (by rw [hmoves]; rfl)
    by_cases hstart : move = .start
    · subst hstart
      rw [State.hostMove_start_of_running { s with hostMoves := rest } hr]
      exact ⟨rfl, fun _ => rfl⟩
    · obtain ⟨_, _, _, _, _, _, _, _, _, _, hresets, _, hprogram⟩ :=
        State.hostMove_frame { s with hostMoves := rest } hstart hreset
      obtain ⟨hplen, hpmem⟩ := hprogram hr
      exact ⟨hplen, State.pmemByte_congr hpmem hresets⟩

/-- Settles O42: the host's moves have no register of the file among what they write (R22, R35). -/
theorem hostCannotWriteTheRegisterFile : Obligations.HostCannotWriteTheRegisterFile := by
  intro s t move rest hmoves hwait hreset hrunning h
  obtain ⟨hcause, _⟩ := step_next_cases h
  rw [step_move hcause hmoves hwait] at h
  injection h with h
  subst h
  by_cases hstart : move = .start
  · have hr : s.runState = .running := hrunning hstart
    subst hstart
    rw [State.hostMove_start_of_running { s with hostMoves := rest } hr]
    exact ⟨rfl, rfl, rfl⟩
  · obtain ⟨ha, hb, hc, _⟩ := State.hostMove_frame { s with hostMoves := rest } hstart hreset
    exact ⟨ha, hb, hc⟩

/-- Outside RUNNING the tape stands until START or RESET (R27). -/
theorem step_tape_of_not_running (hr : s.runState ≠ .running) (hstart : s.hostMoves.head? ≠ some .start)
    (hreset : s.hostMoves.head? ≠ some .reset) (h : step s = .next t) :
    t.tlen = s.tlen ∧ ∀ j, t.tapeEntry j = s.tapeEntry j := by
  rcases step_next_agent h with ⟨rest, _, hblock⟩ | ⟨move, rest, hmoves, _, rfl⟩
  · rw [blockStep_not_running (s := { s with hostMoves := rest }) hr] at hblock
    injection hblock with hblock
    subst hblock
    exact ⟨rfl, fun _ => rfl⟩
  · have hhead : s.hostMoves.head? = some move := by rw [hmoves]; rfl
    have hstart' : move ≠ .start := fun hm => hstart (hm ▸ hhead)
    have hreset' : move ≠ .reset := fun hm => hreset (hm ▸ hhead)
    obtain ⟨_, _, _, _, htape, htlen, _, _, _, _, hresets, _⟩ :=
      State.hostMove_frame { s with hostMoves := rest } hstart' hreset'
    exact ⟨htlen, State.tapeEntry_congr htape hresets⟩

/-- Settles O45: `exec_tape_below` during a run, `step_tape_of_not_running` after it. -/
theorem tapeIsAppendOnly : Obligations.TapeIsAppendOnly := by
  refine ⟨fun i s t h => ?_, fun s t => step_tape_of_not_running⟩
  obtain ⟨hbelow, hle⟩ := exec_tape_below h
  exact ⟨hbelow, hle, exec_is_out_of_tape_changed h⟩

end Sys2Proof.Machine

/-! ## The block does not look at the host's moves

Each part of the block's step commutes with replacing the list of host moves (R58). -/

namespace Sys2Proof.Machine

variable {s t : State}

/-- The result of a step with another list of host moves in its next state. -/
def Result.withHostMoves (rest : List HostMove) : Result → Result
  | .next t => .next { t with hostMoves := rest }
  | .fault f => .fault f
  | .refused r => .refused r

theorem resolveCombo_withHostMoves (o : Combo) (s : State) (rest : List HostMove) :
    resolveCombo o { s with hostMoves := rest } = resolveCombo o s := by
  cases o with
  | lit n => rfl
  | reg r => cases r <;> rfl
  | invalid opd => rfl

theorem withCombo_withHostMoves (o : Combo) (s : State) (rest : List HostMove) {arm arm' : Word → Result}
    (harm : ∀ v, arm' v = Result.withHostMoves rest (arm v)) :
    withCombo o { s with hostMoves := rest } arm' = Result.withHostMoves rest (withCombo o s arm) := by
  have hresolve := resolveCombo_withHostMoves o s rest
  rcases withCombo_cases o s arm with ⟨v, hv, he⟩ | ⟨hnone, he⟩
  · rw [he, withCombo_of_some (hresolve.trans hv), harm]
  · rw [he, withCombo_of_none (hresolve.trans hnone)]
    rfl

theorem emit_withHostMoves (v : Digit) (s : State) (rest : List HostMove) :
    emit v { s with hostMoves := rest } = Result.withHostMoves rest (emit v s) := by
  unfold emit
  rw [apply_ite (Result.withHostMoves rest), apply_ite (Result.withHostMoves rest)]
  rfl

theorem execJnz_withHostMoves (k : Byte) (s : State) (rest : List HostMove) :
    execJnz k { s with hostMoves := rest } = Result.withHostMoves rest (execJnz k s) := by
  unfold execJnz
  rw [apply_ite (Result.withHostMoves rest)]
  rfl

theorem exec_withHostMoves (i : Instr) (s : State) (rest : List HostMove) :
    exec i { s with hostMoves := rest } = Result.withHostMoves rest (exec i s) := by
  cases i with
  | adv o => exact withCombo_withHostMoves o s rest fun _ => rfl
  | bxl k => rfl
  | bst o => exact withCombo_withHostMoves o s rest fun _ => rfl
  | jnz k => exact execJnz_withHostMoves k s rest
  | bxc x => rfl
  | out o => exact withCombo_withHostMoves o s rest fun v => emit_withHostMoves (v.setWidth 3) s rest
  | bdv o => exact withCombo_withHostMoves o s rest fun _ => rfl
  | cdv o => exact withCombo_withHostMoves o s rest fun _ => rfl

theorem decodeAndExec_withHostMoves (opc opd : Byte) (s : State) (rest : List HostMove) :
    decodeAndExec opc opd { s with hostMoves := rest } = Result.withHostMoves rest (decodeAndExec opc opd s) := by
  unfold decodeAndExec
  cases decode opc opd with
  | error e => rfl
  | ok i => exact exec_withHostMoves i s rest

theorem fetch_withHostMoves (s : State) (rest : List HostMove) : fetch { s with hostMoves := rest } = fetch s := rfl

theorem blockStep_withHostMoves (s : State) (rest : List HostMove) :
    blockStep { s with hostMoves := rest } = Result.withHostMoves rest (blockStep s) := by
  by_cases hr : s.runState = .running
  · by_cases hend : s.atEnd
    · rw [blockStep_atEnd hr hend, blockStep_atEnd (s := { s with hostMoves := rest }) hr hend]
      rfl
    · by_cases hlimit : s.atLimit
      · rw [blockStep_atLimit hr hend hlimit, blockStep_atLimit (s := { s with hostMoves := rest }) hr hend hlimit]
        rfl
      · unfold blockStep
        rw [if_neg (not_not.mpr hr), if_neg (not_not.mpr hr), if_neg hend, if_neg hend, if_neg hlimit, if_neg hlimit,
          fetch_withHostMoves]
        rcases fetch s with f | ⟨opc, opd⟩
        · rfl
        · exact decodeAndExec_withHostMoves opc opd s rest
  · rw [blockStep_not_running hr, blockStep_not_running (s := { s with hostMoves := rest }) hr]
    rfl

/-- Settles O32: the waiting host's move is dropped, and the block's step commutes with that. -/
theorem waitingHostDoesNotChangeTheStep : Obligations.WaitingHostDoesNotChangeTheStep := by
  intro s t rest hmoves h
  obtain ⟨hcause, _⟩ := step_next_cases h
  have hblock : blockStep s = .next t := step_nil hcause hmoves ▸ h
  calc step { s with hostMoves := .wait :: rest }
      = blockStep { s with hostMoves := rest } := step_wait hcause rfl
    _ = Result.withHostMoves rest (blockStep s) := blockStep_withHostMoves s rest
    _ = .next { t with hostMoves := rest } := by rw [hblock]; rfl

end Sys2Proof.Machine

/-! ## The host's accesses

An equation for each case of the host's register, PMEM and TAPE accesses, and the layout of STATUS. -/

namespace Sys2Proof.Machine

variable (s : State)

/-! ### Register writes -/

theorem State.hostWriteRegister_of_running (h : s.runState = .running) (n : BitVec 4) (v : Nat) :
    s.hostWriteRegister n v = s := if_pos h

theorem State.hostWriteRegister_initA (h : s.runState ≠ .running) (v : Nat) :
    s.hostWriteRegister 0 v = { s with initA := BitVec.ofNat 64 v } := if_neg h

theorem State.hostWriteRegister_initB (h : s.runState ≠ .running) (v : Nat) :
    s.hostWriteRegister 1 v = { s with initB := BitVec.ofNat 64 v } := if_neg h

theorem State.hostWriteRegister_initC (h : s.runState ≠ .running) (v : Nat) :
    s.hostWriteRegister 2 v = { s with initC := BitVec.ofNat 64 v } := if_neg h

theorem State.hostWriteRegister_plen (h : s.runState ≠ .running) {v : Nat} (hv : v ≤ Config.progCap) :
    s.hostWriteRegister 7 v = { s with plen := BitVec.ofNat 16 v } := (if_neg h).trans (if_pos hv)

theorem State.hostWriteRegister_plen_too_large {v : Nat} (hv : ¬v ≤ Config.progCap) :
    s.hostWriteRegister 7 v = s := by
  by_cases h : s.runState = .running
  · exact s.hostWriteRegister_of_running h 7 v
  · exact (if_neg h).trans (if_neg hv)

/-- Only numbers 0, 1, 2 and 7 can be written (R35). -/
theorem State.hostWriteRegister_read_only {n : BitVec 4} (h0 : n ≠ 0) (h1 : n ≠ 1) (h2 : n ≠ 2) (h7 : n ≠ 7)
    (v : Nat) : s.hostWriteRegister n v = s := by
  have hne {m : BitVec 4} (hm : n ≠ m) : n.toNat ≠ m.toNat := fun heq => hm (BitVec.eq_of_toNat_eq heq)
  unfold State.hostWriteRegister
  split
  · rfl
  · split
    · exact absurd ‹_› (hne h0)
    · exact absurd ‹_› (hne h1)
    · exact absurd ‹_› (hne h2)
    · exact absurd ‹_› (hne h7)
    · rfl

/-- Settles O36: one equation of `State.hostWriteRegister` for each clause. -/
theorem hostRegisterWrite : Obligations.HostRegisterWrite := by
  intro s n v rest hcause hmoves
  have hstep : step s = .next ({ s with hostMoves := rest }.hostWriteRegister n v).noAnswer :=
    step_move hcause hmoves nofun
  refine ⟨_, rfl, fun hr => ?_, fun hr => ⟨?_, ?_, ?_, ?_, ?_, ?_⟩⟩ <;> rw [hstep]
  · rw [State.hostWriteRegister_of_running { s with hostMoves := rest } hr]
    rfl
  · rintro rfl
    rw [State.hostWriteRegister_initA { s with hostMoves := rest } hr]
    rfl
  · rintro rfl
    rw [State.hostWriteRegister_initB { s with hostMoves := rest } hr]
    rfl
  · rintro rfl
    rw [State.hostWriteRegister_initC { s with hostMoves := rest } hr]
    rfl
  · rintro rfl hv
    rw [State.hostWriteRegister_plen { s with hostMoves := rest } hr hv]
    exact ⟨_, rfl, rfl, Nat.mod_eq_of_lt (Nat.lt_of_le_of_lt hv (by decide))⟩
  · rintro rfl hv
    rw [State.hostWriteRegister_plen_too_large { s with hostMoves := rest } (Nat.not_le.mpr hv)]
    rfl
  · intro h0 h1 h2 h7
    rw [State.hostWriteRegister_read_only { s with hostMoves := rest } h0 h1 h2 h7]
    rfl

/-! ### Unspecified answers -/

/-- An unspecified value of `w` bits is one of the values the width allows (R36, R37, R38). -/
theorem State.answerAnyOfWidth_eq (w : Nat) :
    ∃ v < 2 ^ w, s.answerAnyOfWidth w = { s with reply := some v, draws := s.draws + 1 } :=
  ⟨_, Nat.mod_lt _ (Nat.two_pow_pos w), rfl⟩

/-! ### Program memory -/

theorem State.hostWritePmem_of_writable (hr : s.runState ≠ .running) {a : Nat} (ha : a < Config.progCap) (b : Byte) :
    s.hostWritePmem a b = s.writePmem a b := if_pos ⟨hr, ha⟩

theorem State.hostWritePmem_ignored {a : Nat} (h : s.runState = .running ∨ Config.progCap ≤ a) (b : Byte) :
    s.hostWritePmem a b = s :=
  if_neg fun ⟨hr, ha⟩ => h.elim hr ha.not_ge

theorem State.hostReadPmem_of_readable (hr : s.runState ≠ .running) {a : Nat} (ha : a < Config.progCap) :
    s.hostReadPmem a = s.answer (s.pmemByte a).toNat := if_pos ⟨hr, ha⟩

theorem State.hostReadPmem_unspecified {a : Nat} (h : s.runState = .running ∨ Config.progCap ≤ a) :
    s.hostReadPmem a = s.answerAnyOfWidth 8 :=
  if_neg fun ⟨hr, ha⟩ => h.elim hr ha.not_ge

/-- Settles O37: the two cases of a write and the two cases of a read. -/
theorem hostProgramMemoryAccess : Obligations.HostProgramMemoryAccess := by
  intro s a b rest hcause
  refine ⟨fun hmoves => ?_, fun hmoves => ?_⟩
  · have hstep : step s = .next ({ s with hostMoves := rest }.hostWritePmem a b).noAnswer :=
      step_move hcause hmoves nofun
    refine ⟨fun hr ha => ?_, fun hignored => ?_⟩
    · rw [State.hostWritePmem_of_writable { s with hostMoves := rest } hr ha] at hstep
      exact ⟨_, hstep, rfl, State.pmemByte_writePmem_same _ a b, fun _ hi => State.pmemByte_writePmem_other _ b hi⟩
    · rw [hstep, State.hostWritePmem_ignored { s with hostMoves := rest } hignored]
      rfl
  · have hstep : step s = .next ({ s with hostMoves := rest }.hostReadPmem a) := step_move hcause hmoves nofun
    refine ⟨fun hr ha => ?_, fun hunspecified => ?_⟩
    · rw [hstep, State.hostReadPmem_of_readable { s with hostMoves := rest } hr ha]
      rfl
    · obtain ⟨v, hv, heq⟩ := State.answerAnyOfWidth_eq { s with hostMoves := rest } 8
      refine ⟨v, hv, ?_⟩
      rw [hstep, State.hostReadPmem_unspecified { s with hostMoves := rest } hunspecified, heq]

/-! ### The tape -/

theorem State.hostReadTape_of_readable (hr : s.runState ≠ .running) {i : Nat} (hi : i < s.tlen) :
    s.hostReadTape i = s.answer (s.tapeEntry i).toNat := if_pos ⟨hr, hi⟩

theorem State.hostReadTape_unspecified {i : Nat} (h : s.runState = .running ∨ s.tlen ≤ i) :
    s.hostReadTape i = s.answerAnyOfWidth 3 :=
  if_neg fun ⟨hr, hi⟩ => h.elim hr hi.not_ge

/-- Settles O39: the two cases of a tape read. -/
theorem hostTapeRead : Obligations.HostTapeRead := by
  intro s i rest hcause hmoves
  have hstep : step s = .next ({ s with hostMoves := rest }.hostReadTape i) := step_move hcause hmoves nofun
  refine ⟨fun hr hi => ?_, fun hunspecified => ?_⟩
  · rw [hstep, State.hostReadTape_of_readable { s with hostMoves := rest } hr hi]
    rfl
  · obtain ⟨v, hv, heq⟩ := State.answerAnyOfWidth_eq { s with hostMoves := rest } 3
    refine ⟨v, Nat.le_of_lt_succ hv, ?_⟩
    rw [hstep, State.hostReadTape_unspecified { s with hostMoves := rest } hunspecified, heq]

/-! ### STATUS and DONE -/

/-- STATUS as a number: CAUSE from bit 4 on, STATE below it (R33). -/
theorem State.status_toNat : s.status.toNat = s.cause.toNat * 16 + s.runState.code.toNat := by
  have hcode : s.runState.code.toNat < 2 ^ 4 := Nat.lt_trans s.runState.code.isLt (by decide)
  have hlow : (0#2 ++ s.runState.code).toNat = s.runState.code.toNat := by
    cases s.runState <;> rfl
  calc s.status.toNat
      = s.cause.toNat <<< 4 ||| (0#2 ++ s.runState.code).toNat := BitVec.toNat_append s.cause (0#2 ++ s.runState.code)
    _ = s.cause.toNat <<< 4 + s.runState.code.toNat := by rw [hlow, Nat.shiftLeft_add_eq_or_of_lt hcode]
    _ = s.cause.toNat * 16 + s.runState.code.toNat := by rw [Nat.shiftLeft_eq]

/-- Outside FAULTED the invariant has CAUSE at 0, and STATUS is the code of STATE alone (R33). -/
theorem State.status_of_cause_zero {r : RunState} (hr : s.runState = r) (hc : s.cause = 0) :
    s.status = (0#4 ++ (0#2 ++ r.code)) := by
  rw [State.status, hr, hc]
  rfl

/-- Settles O40, from STATUS as a number and the invariant's clause on CAUSE. -/
theorem statusLayout : Obligations.StatusLayout := by
  rintro s ⟨_, _, _, _, ⟨hfaulted, hother⟩, _⟩
  have hstatus : s.status.toNat = s.cause.toNat * 16 + s.runState.code.toNat := s.status_toNat
  have hcode : s.runState.code.toNat < 4 := s.runState.code.isLt
  have hzero {r : RunState} (hr : s.runState = r) (hne : r ≠ .faulted) : s.status = (0#4 ++ (0#2 ++ r.code)) :=
    s.status_of_cause_zero hr (hother (hr ▸ hne))
  refine ⟨by omega, by omega, by omega, fun hr => hzero hr nofun, fun hr => hzero hr nofun, fun hr => hzero hr nofun,
    fun hr => ?_, s.hostWriteRegister_read_only (by decide) (by decide) (by decide) (by decide)⟩
  obtain ⟨hlow, hhigh⟩ := hfaulted hr
  have hthree : s.runState.code.toNat = 3 := by rw [hr]; rfl
  simp only [← BitVec.toNat_inj, hstatus, hthree]
  have hcauses : s.cause.toNat = 1 ∨ s.cause.toNat = 2 ∨ s.cause.toNat = 3 ∨ s.cause.toNat = 4 := by omega
  rcases hcauses with hc | hc | hc | hc <;> simp [hc]

/-- Settles O41: bit 1 of STATUS is the upper bit of the code of STATE, which HALTED and FAULTED have set. -/
theorem doneExactlyWhenTheRunHasEnded : Obligations.DoneExactlyWhenTheRunHasEnded := by
  intro s
  have hbit : s.status.getLsbD 1 = s.runState.code.getLsbD 1 :=
    calc s.status.getLsbD 1
        = (0#2 ++ s.runState.code).getLsbD 1 := BitVec.getLsbD_append (x := s.cause)
      _ = s.runState.code.getLsbD 1 := BitVec.getLsbD_append (x := 0#2)
  refine ⟨by simp [State.done], ?_⟩
  rw [hbit, State.done]
  cases s.runState <;> rfl

/-! ### Register reads -/

theorem State.hostReadRegister_of_not_running (h : s.runState ≠ .running) (n : BitVec 4) :
    s.hostReadRegister n = s.answer (s.hostRegister n) := if_pos (.inl h)

theorem State.hostReadRegister_status : s.hostReadRegister 8 = s.answer s.status.toNat := if_pos (.inr rfl)

/-- Any other read during a run answers some value of the register's width, if the number has one (R37). -/
theorem State.hostReadRegister_unspecified (hr : s.runState = .running) {n : BitVec 4} (hn : n ≠ 8) :
    ∃ v, s.hostReadRegister n = { s with reply := some v, draws := s.draws + 1 } ∧
      ∀ w, s.hostRegisterWidth n = some w → v < 2 ^ w := by
  have hread : ¬(s.runState ≠ .running ∨ n = 8) := fun h => h.elim (· hr) hn
  unfold State.hostReadRegister
  rw [if_neg hread]
  cases hwidth : s.hostRegisterWidth n with
  | none => exact ⟨_, rfl, nofun⟩
  | some w =>
    obtain ⟨v, hv, heq⟩ := s.answerAnyOfWidth_eq w
    exact ⟨v, heq, fun _ h => Option.some.inj h ▸ hv⟩

theorem State.hostRegister_reserved {n : BitVec 4} (h : 11 ≤ n.toNat) : s.hostRegister n = 0 := by
  unfold State.hostRegister
  split <;> omega

/-- INIT_A, INIT_B, INIT_C, A, B and C are words (R34). -/
theorem State.hostRegisterWidth_word {n : BitVec 4} (h : n.toNat ≤ 5) : s.hostRegisterWidth n = some 64 := by
  have hcases : n.toNat = 0 ∨ n.toNat = 1 ∨ n.toNat = 2 ∨ n.toNat = 3 ∨ n.toNat = 4 ∨ n.toNat = 5 := by omega
  rcases hcases with h | h | h | h | h | h <;> simp [State.hostRegisterWidth, h]

/-- Settles O38: the value of each number outside a run, the width of each number during one. -/
theorem hostRegisterRead : Obligations.HostRegisterRead := by
  intro s n rest hcause hmoves
  have hstep : step s = .next ({ s with hostMoves := rest }.hostReadRegister n) := step_move hcause hmoves nofun
  refine ⟨fun hr => ⟨s.hostRegister n, ?_, ?_⟩, fun hr hn => ⟨?_, s.status_of_cause_zero hr⟩, fun hr hn => ?_⟩
  · rw [hstep, State.hostReadRegister_of_not_running { s with hostMoves := rest } hr]
    rfl
  · refine ⟨?_, ?_, ?_, ?_, ?_, ?_, ?_, ?_, ?_, ?_, ?_, s.hostRegister_reserved⟩ <;> rintro rfl <;> rfl
  · subst hn
    rw [hstep, State.hostReadRegister_status { s with hostMoves := rest }]
    rfl
  · obtain ⟨v, heq, hwidth⟩ := State.hostReadRegister_unspecified { s with hostMoves := rest } hr hn
    refine ⟨v, by rw [hstep, heq], fun hn => hwidth 64 (s.hostRegisterWidth_word hn), ?_, ?_, ?_⟩
    · rintro (rfl | rfl) <;> exact hwidth 16 rfl
    · rintro rfl
      exact hwidth s.params.stepsW rfl
    · rintro rfl
      exact hwidth s.params.tlenW rfl

end Sys2Proof.Machine

/-! ## The step of a ready block

What the decoder reads is well formed, and a ready block that neither halts nor is at the step cap executes it. -/

namespace Sys2Proof

/-! ### What the decoder reads -/

/-- Only the bytes 7 to 255 are read as invalid combo operands (R74). -/
theorem Combo.ofByte_wf (opd : Byte) : (Combo.ofByte opd).wf := by
  unfold Combo.ofByte
  split
  case h_8 =>
    simp only [imp_false] at *
    change 7 ≤ opd.toNat
    omega
  all_goals exact trivial

/-- The rows of the opcode table without a combo operand take any operand byte (R75, R76, R77). -/
theorem decode_wf {opc opd : Byte} {i : Instr} (h : decode opc opd = .ok i) : i.wf := by
  unfold decode at h
  split at h <;> cases h
  case h_1 | h_3 | h_6 | h_7 | h_8 => exact Combo.ofByte_wf opd
  case h_2 | h_4 | h_5 => exact trivial

end Sys2Proof

namespace Sys2Proof.Machine

variable {s : State} {i : Instr}

/-! ### From the step to the instruction -/

/-- While the host makes no move the step is the block's (R90). -/
theorem step_of_ready (h : s.Ready) : step s = blockStep s := by
  obtain ⟨_, hcause, hmoves⟩ := h
  exact step_nil (by simp [hcause]) hmoves

theorem decodeAndExec_of_decode {opc opd : Byte} (h : decode opc opd = .ok i) (s : State) :
    decodeAndExec opc opd s = exec i s := by
  unfold decodeAndExec
  rw [h]

/-- Settles O22: PLEN is at most PROG_CAP, so where the halt test fails both bytes lie in PMEM and the fetch reads them. -/
theorem stepRunsTheDecodedInstruction : Obligations.StepRunsTheDecodedInstruction := by
  intro s i hready hplen hip hsteps hdecode
  have hend : ¬s.atEnd := Nat.not_le.mpr hip
  have hpmem : s.ip.toNat + 1 < Config.progCap := Nat.lt_of_lt_of_le hip hplen
  have ⟨hrunning, _⟩ := hready
  refine ⟨decode_wf hdecode, ?_⟩
  calc step s
      = blockStep s := step_of_ready hready
    _ = decodeAndExec (s.pmemByte s.ip.toNat) (s.pmemByte (s.ip.toNat + 1)) s :=
        blockStep_fetched hrunning hend hsteps hpmem
    _ = exec i s := decodeAndExec_of_decode hdecode s

end Sys2Proof.Machine

/-! ## Decoder and encoder

What each half of the codec reads and writes, then that they are inverse to each other: on the combo operand byte (R74),
and from there on the pair of bytes (R70). -/

namespace Sys2Proof

variable {opc opd : Byte}

/-! ### The combo operand byte -/

theorem Combo.ofByte_of_seven_le (h : 7 ≤ opd.toNat) : Combo.ofByte opd = .invalid opd := by
  unfold Combo.ofByte
  split
  case h_8 => rfl
  all_goals omega

/-- No two operand bytes are read as the same combo operand (R74). -/
theorem Combo.toByte_ofByte (opd : Byte) : (Combo.ofByte opd).toByte = opd := by
  unfold Combo.ofByte
  split
  case h_8 => rfl
  all_goals
    next hopd => exact BitVec.eq_of_toNat_eq hopd.symm

/-- Every combo operand that stands for a byte is what that byte is read as (R74). -/
theorem Combo.ofByte_toByte {o : Combo} (h : o.wf) : Combo.ofByte o.toByte = o := by
  cases o with
  | lit n =>
    have hliteral : ∀ n : BitVec 2, Combo.ofByte (n.setWidth 8) = .lit n := by decide
    exact hliteral n
  | reg r => cases r <;> rfl
  | invalid opd => exact Combo.ofByte_of_seven_le h

theorem Combo.ofByte_of_le_three (h : opd.toNat ≤ 3) : Combo.ofByte opd = .lit (opd.setWidth 2) := by
  have hbyte : (Combo.lit (opd.setWidth 2)).toByte = opd := by
    apply BitVec.eq_of_toNat_eq
    simp only [Combo.toByte, BitVec.toNat_setWidth]
    omega
  calc Combo.ofByte opd
      = Combo.ofByte (Combo.lit (opd.setWidth 2)).toByte := by rw [hbyte]
    _ = .lit (opd.setWidth 2) := Combo.ofByte_toByte trivial

/-! ### The opcode byte -/

/-- The bytes outside the opcode table, and its rows (R72). -/
theorem opcode_cases (opc : Byte) :
    8 ≤ opc.toNat ∨ opc = 0 ∨ opc = 1 ∨ opc = 2 ∨ opc = 3 ∨ opc = 4 ∨ opc = 5 ∨ opc = 6 ∨ opc = 7 := by
  bv_omega

@[simp] theorem decode_zero (opd : Byte) : decode 0#8 opd = .ok (.adv (Combo.ofByte opd)) := rfl
@[simp] theorem decode_one (opd : Byte) : decode 1#8 opd = .ok (.bxl opd) := rfl
@[simp] theorem decode_two (opd : Byte) : decode 2#8 opd = .ok (.bst (Combo.ofByte opd)) := rfl
@[simp] theorem decode_three (opd : Byte) : decode 3#8 opd = .ok (.jnz opd) := rfl
@[simp] theorem decode_four (opd : Byte) : decode 4#8 opd = .ok (.bxc opd) := rfl
@[simp] theorem decode_five (opd : Byte) : decode 5#8 opd = .ok (.out (Combo.ofByte opd)) := rfl
@[simp] theorem decode_six (opd : Byte) : decode 6#8 opd = .ok (.bdv (Combo.ofByte opd)) := rfl
@[simp] theorem decode_seven (opd : Byte) : decode 7#8 opd = .ok (.cdv (Combo.ofByte opd)) := rfl

theorem decode_of_eight_le (h : 8 ≤ opc.toNat) (opd : Byte) : decode opc opd = .error (.invalidOpcode opc) := by
  unfold decode
  split
  case h_9 => rfl
  all_goals omega

/-! ### The pair of bytes -/

theorem decode_encode {i : Instr} (h : i.wf) : decode (encode i).1 (encode i).2 = .ok i := by
  cases i with
  | adv o | bst o | out o | bdv o | cdv o => simp [encode, Instr.opcode, Instr.operand, Combo.ofByte_toByte h]
  | bxl k | jnz k | bxc k => rfl

/-- Settles O1: the opcode byte selects the row again, and the operand byte is read back by `Combo.ofByte_toByte`. -/
theorem decodeOfEncodeIsIdentity : Obligations.DecodeOfEncodeIsIdentity :=
  fun _ h => decode_encode h

theorem encode_of_decode {i : Instr} (h : decode opc opd = .ok i) : encode i = (opc, opd) := by
  rcases opcode_cases opc with hillegal | rfl | rfl | rfl | rfl | rfl | rfl | rfl | rfl
  · rw [decode_of_eight_le hillegal] at h
    cases h
  all_goals
    cases h
    simp [encode, Instr.opcode, Instr.operand, Combo.toByte_ofByte]

/-- Settles O2. -/
theorem encodeOfDecodeIsIdentity : Obligations.EncodeOfDecodeIsIdentity :=
  fun _ _ _ h => ⟨decode_wf h, encode_of_decode h⟩

/-- Settles O4, each pair through its row of the opcode table. -/
theorem writtenOutPairsDecode : Obligations.WrittenOutPairsDecode :=
  ⟨decode_zero 1, decode_zero 5, decode_one 255, decode_two 4, decode_three 4, decode_four 7, decode_five 3, decode_six 2,
    decode_seven 6, decode_zero 200, decode_of_eight_le (by decide) 0⟩

/-! ### The opcode table's number of a pair -/

theorem tableWord_toNat (opc opd : Byte) : (tableWord opc opd).toNat = opc.toNat * 256 + opd.toNat := by
  calc (tableWord opc opd).toNat
      = opc.toNat <<< 8 ||| opd.toNat := BitVec.toNat_append opc opd
    _ = opc.toNat <<< 8 + opd.toNat := (Nat.shiftLeft_add_eq_or_of_lt opd.isLt opc.toNat).symm
    _ = opc.toNat * 256 + opd.toNat := by rw [Nat.shiftLeft_eq]

/-- The mask of the opcode table keeps the opcode byte and clears the operand byte (R71). -/
theorem tableWord_and_mask (opc opd : Byte) : tableWord opc opd &&& 0xFF00 = tableWord opc 0 := by
  calc (opc ++ opd) &&& (BitVec.allOnes 8 ++ 0#8)
      = (opc &&& BitVec.allOnes 8) ++ (opd &&& 0#8) := BitVec.and_append
    _ = opc ++ 0#8 := by rw [BitVec.and_allOnes, BitVec.and_zero]

theorem tableWord_opcode_inj {opc row : Byte} : tableWord opc 0 = tableWord row 0 ↔ opc = row := by
  refine ⟨fun h => BitVec.eq_of_toNat_eq ?_, fun h => by rw [h]⟩
  have hnumber := congrArg BitVec.toNat h
  simp only [tableWord_toNat] at hnumber
  omega

/-- The table's number holds the pair: nothing of it is cut off at 16 bits (R71). -/
theorem tableBytes_tableWord (opc opd : Byte) : tableBytes 16 (tableWord opc opd).toNat = (opc, opd) := by
  have hopc := opc.isLt
  have hopd := opd.isLt
  rw [tableWord_toNat]
  refine Prod.ext (BitVec.eq_of_toNat_eq ?_) (BitVec.eq_of_toNat_eq ?_)
  all_goals
    simp only [tableBytes, BitVec.toNat_ofNat]
    omega

theorem decodeTableWord_eq_toOption {nbits w : Nat} (h : tableBytes nbits w = (opc, opd)) :
    decodeTableWord nbits w = (decode opc opd).toOption := by
  unfold decodeTableWord
  rw [h]
  cases decode opc opd <;> rfl

/-- Settles O5. -/
theorem tableWordsNumberThePairs : Obligations.TableWordsNumberThePairs := by
  intro opc opd
  refine ⟨tableWord_toNat opc opd, fun row => ?_, decodeTableWord_eq_toOption (tableBytes_tableWord opc opd)⟩
  rw [tableWord_and_mask, tableWord_opcode_inj]

end Sys2Proof

/-! ## What decoding leads to

The step on an illegal opcode byte raises InvalidOpcode (R72), a combo instruction with an illegal operand byte
InvalidOperand (R74). -/

namespace Sys2Proof.Machine

variable {s : State} {opd : Byte}

/-! ### Illegal opcodes -/

/-- The opcode byte lies in PMEM, so the step of a ready block fetches it and raises (R72, R94). -/
theorem step_of_illegal_opcode (hready : s.Ready) (hplen : s.plen.toNat ≤ Config.progCap)
    (hip : s.ip.toNat + 1 < s.plen.toNat) (hsteps : ¬s.atLimit) (hillegal : 8 ≤ (s.pmemByte s.ip.toNat).toNat) :
    step s = .next (s.raise .invalidOpcode) := by
  have hend : ¬s.atEnd := Nat.not_le.mpr hip
  have hpmem : s.ip.toNat + 1 < Config.progCap := Nat.lt_of_lt_of_le hip hplen
  have ⟨hrunning, _⟩ := hready
  calc step s
      = blockStep s := step_of_ready hready
    _ = decodeAndExec (s.pmemByte s.ip.toNat) (s.pmemByte (s.ip.toNat + 1)) s :=
        blockStep_fetched hrunning hend hsteps hpmem
    _ = .next (s.raise .invalidOpcode) := by rw [decodeAndExec, decode_of_eight_le hillegal]

/-- Settles O3. -/
theorem opcodeByteSelectsTheInstruction : Obligations.OpcodeByteSelectsTheInstruction := by
  intro opc opd
  refine ⟨?_, ?_, ?_, ?_, ?_, ?_, ?_, ?_, fun hillegal => ⟨decode_of_eight_le hillegal opd, ?_⟩⟩
  case refine_9 =>
    rintro s hready hplen hip hsteps rfl
    exact step_of_illegal_opcode hready hplen hip hsteps hillegal
  case refine_2 | refine_4 | refine_5 =>
    rintro rfl
    rfl
  all_goals
    rintro rfl
    exact ⟨_, rfl⟩

/-! ### Combo operands -/

theorem resolveCombo_of_le_three (h : opd.toNat ≤ 3) (s : State) :
    ∃ v, resolveCombo (Combo.ofByte opd) s = some v ∧ v.toNat = opd.toNat := by
  refine ⟨(opd.setWidth 2).setWidth 64, by rw [Combo.ofByte_of_le_three h, resolveCombo_lit], ?_⟩
  simp only [BitVec.toNat_setWidth]
  omega

/-- An illegal operand byte stops each of the five combo instructions before it does anything (R98). -/
theorem exec_combo_of_seven_le (h : 7 ≤ opd.toNat) {i : Instr} (hi : i ∈ comboInstrs opd) (s : State) :
    exec i s = .next (s.raise .invalidOperand) := by
  have hnone : resolveCombo (Combo.ofByte opd) s = none := by rw [Combo.ofByte_of_seven_le h, resolveCombo_invalid]
  simp only [comboInstrs, List.mem_cons, List.not_mem_nil, or_false] at hi
  rcases hi with rfl | rfl | rfl | rfl | rfl
  all_goals exact withCombo_of_none hnone _

/-- Settles O7. -/
theorem comboOperandDenotesItsTableValue : Obligations.ComboOperandDenotesItsTableValue := by
  intro s opd
  refine ⟨fun hliteral => resolveCombo_of_le_three hliteral s, ?_, ?_, ?_,
    fun hillegal i hi => exec_combo_of_seven_le hillegal hi s⟩
  all_goals
    rintro rfl
    rfl

end Sys2Proof.Machine

/-! ## Assembler text (R81)

The assembler reads back what the disassembler writes: first a decimal number, then an operand, then the comment that
every line may have and no disassembled line has, then the line. -/

namespace Sys2Proof.Machine

variable {opc opd : Byte}

/-! ### Decimal numbers -/

theorem digitValue_digitChar {d : Nat} (h : d < 10) : digitValue (digitChar d) = some d := by
  have hdigits : ∀ d < 10, digitValue (digitChar d) = some d := by decide
  exact hdigits d h

theorem readDigits_digitChar {d : Nat} (h : d < 10) (n : Nat) (rest : List Char) :
    readDigits n (digitChar d :: rest) = readDigits (10 * n + d) rest := by
  rw [readDigits, digitValue_digitChar h]

/-- A decimal number is the digits of its hundreds, tens and ones, from the first that is not 0 on. -/
theorem decimal_cases (b : Byte) :
    (b.toNat < 10 ∧ decimal b = [digitChar b.toNat]) ∨
      (b.toNat < 100 ∧ decimal b = [digitChar (b.toNat / 10), digitChar (b.toNat % 10)]) ∨
      (decimal b = [digitChar (b.toNat / 100), digitChar (b.toNat / 10 % 10), digitChar (b.toNat % 10)]) := by
  unfold decimal
  by_cases h10 : b.toNat < 10
  · exact .inl ⟨h10, if_pos h10⟩
  · by_cases h100 : b.toNat < 100
    · exact .inr (.inl ⟨h100, by rw [if_neg h10, if_pos h100]⟩)
    · exact .inr (.inr (by rw [if_neg h10, if_neg h100]))

theorem readDigits_decimal (b : Byte) : readDigits 0 (decimal b) = some b.toNat := by
  have hb := b.isLt
  rcases decimal_cases b with ⟨h, htext⟩ | ⟨h, htext⟩ | htext
  all_goals
    rw [htext]
    repeat rw [readDigits_digitChar (by omega)]
    rw [readDigits]
    congr 1
    omega

theorem decimal_ne_nil (b : Byte) : decimal b ≠ [] := by
  rcases decimal_cases b with ⟨_, h⟩ | ⟨_, h⟩ | h <;> simp [h]

theorem parseDecimal_of_readDigits {text : List Char} {n : Nat} (hne : text ≠ []) (hread : readDigits 0 text = some n)
    (hn : n ≤ 255) : parseDecimal text = some (BitVec.ofNat 8 n) := by
  cases text with
  | nil => exact absurd rfl hne
  | cons ch rest => simp [parseDecimal, hread, hn]

theorem parseDecimal_decimal (b : Byte) : parseDecimal (decimal b) = some b := by
  rw [parseDecimal_of_readDigits (decimal_ne_nil b) (readDigits_decimal b) (Nat.le_of_lt_succ b.isLt),
    BitVec.ofNat_toNat, BitVec.setWidth_eq]

theorem mem_decimal {b : Byte} {ch : Char} (h : ch ∈ decimal b) : ∃ d < 10, ch = digitChar d := by
  have hb := b.isLt
  rcases decimal_cases b with ⟨_, htext⟩ | ⟨_, htext⟩ | htext
  all_goals
    simp only [htext, List.mem_cons, List.not_mem_nil, or_false] at h
  · exact ⟨_, by omega, h⟩
  · rcases h with h | h <;> exact ⟨_, by omega, h⟩
  · rcases h with h | h | h <;> exact ⟨_, by omega, h⟩

theorem not_mem_decimal {ch : Char} (h : ∀ d < 10, digitChar d ≠ ch) (b : Byte) : ch ∉ decimal b := by
  intro hmem
  obtain ⟨d, hd, heq⟩ := mem_decimal hmem
  exact h d hd heq.symm

/-! ### Operands and pairs -/

theorem parseCombo_text {o : Combo} (h : o.wf) : parseCombo (Combo.text o) = some o.toByte := by
  cases o with
  | lit n =>
    have hliteral : ∀ n : BitVec 2, parseCombo (decimal (n.setWidth 8)) = some (n.setWidth 8) := by decide
    exact hliteral n
  | reg r => cases r <;> rfl
  | invalid opd =>
    have hopd : 7 ≤ opd.toNat := h
    calc parseCombo ('#' :: decimal opd)
        = (parseDecimal (decimal opd)).filter fun b => 7 ≤ b.toNat := by rw [parseCombo]
      _ = some opd := by simp [parseDecimal_decimal, hopd]

theorem parsePair_decimal (h : 8 ≤ opc.toNat) (opd : Byte) :
    parsePair (decimal opc ++ ',' :: decimal opd) = some (opc, opd) := by
  have hcomma : ',' ∉ decimal opc := not_mem_decimal (by decide) opc
  have hopc : ∀ ch ∈ decimal opc, decide (ch ≠ ',') = true := fun _ hch =>
    decide_eq_true (ne_of_mem_of_not_mem hch hcomma)
  have hbefore : (decimal opc ++ ',' :: decimal opd).takeWhile (· ≠ ',') = decimal opc := by
    rw [List.takeWhile_append_of_pos hopc, List.takeWhile_cons_of_neg (by decide), List.append_nil]
  have hfrom : (decimal opc ++ ',' :: decimal opd).dropWhile (· ≠ ',') = ',' :: decimal opd := by
    rw [List.dropWhile_append_of_pos hopc, List.dropWhile_cons_of_neg (by decide)]
  unfold parsePair
  rw [hbefore, hfrom, parseDecimal_decimal]
  simp only [if_pos h, parseDecimal_decimal, Option.map_some]

/-! ### Lines without a comment -/

/-- Text in which no comment starts and no space stands, so that `stripComment` cuts nothing off its end (R81). -/
def Solid (text : List Char) : Prop := text ≠ [] ∧ ' ' ∉ text ∧ ';' ∉ text

theorem stripComment_append_solid {front text : List Char} (hfront : ';' ∉ front) (htext : Solid text) :
    stripComment (front ++ text) = front ++ text := by
  obtain ⟨hne, hspace, hsemicolon⟩ := htext
  have hcomment : (front ++ text).takeWhile (· ≠ ';') = front ++ text :=
    List.takeWhile_eq_self_iff.mpr fun ch hch =>
      decide_eq_true (ne_of_mem_of_not_mem hch (List.not_mem_append hfront hsemicolon))
  have hspaces : (front ++ text).rdropWhile (· = ' ') = front ++ text := by
    refine List.rdropWhile_eq_self_iff.mpr fun _ => ?_
    rw [List.getLast_append_of_ne_nil _ hne, decide_eq_true_eq]
    exact ne_of_mem_of_not_mem (List.getLast_mem hne) hspace
  rw [stripComment, hcomment]
  exact hspaces

theorem solid_decimal (b : Byte) : Solid (decimal b) :=
  ⟨decimal_ne_nil b, not_mem_decimal (by decide) b, not_mem_decimal (by decide) b⟩

theorem Solid.append {text rest : List Char} (h : Solid text) (hrest : Solid rest) : Solid (text ++ rest) := by
  obtain ⟨hne, hspace, hsemicolon⟩ := h
  obtain ⟨_, hspace', hsemicolon'⟩ := hrest
  exact ⟨List.append_ne_nil_of_left_ne_nil hne rest, List.not_mem_append hspace hspace',
    List.not_mem_append hsemicolon hsemicolon'⟩

theorem solid_singleton {ch : Char} (hspace : ch ≠ ' ') (hsemicolon : ch ≠ ';') : Solid [ch] :=
  ⟨List.cons_ne_nil _ _, mt List.mem_singleton.mp hspace.symm, mt List.mem_singleton.mp hsemicolon.symm⟩

theorem solid_comboText (o : Combo) : Solid (Combo.text o) := by
  cases o with
  | lit n => exact solid_decimal _
  | reg r => cases r <;> exact solid_singleton (by decide) (by decide)
  | invalid opd => exact (solid_singleton (by decide) (by decide)).append (solid_decimal opd)

theorem stripComment_withOperand {operand : List Char} (h : Solid operand) (i : Instr) :
    stripComment (withOperand (Instr.mnemonic i) operand) = withOperand (Instr.mnemonic i) operand := by
  have hfront : ';' ∉ Instr.mnemonic i ++ [' '] := by
    cases i <;> simp [Instr.mnemonic]
  have happend : withOperand (Instr.mnemonic i) operand = (Instr.mnemonic i ++ [' ']) ++ operand := by
    simp [withOperand]
  rw [happend, stripComment_append_solid hfront h]

/-! ### Whole lines -/

theorem assemble_text {i : Instr} (h : i.wf) : assemble (Instr.text i) = some (encode i) := by
  cases i with
  | adv o | bst o | out o | bdv o | cdv o =>
    rw [Instr.text, assemble, stripComment_withOperand (solid_comboText o)]
    simp [withOperand, Instr.mnemonic, parseCombo_text h, encode, Instr.opcode, Instr.operand]
  | bxl k | jnz k =>
    rw [Instr.text, assemble, stripComment_withOperand (solid_decimal k)]
    simp [withOperand, Instr.mnemonic, parseDecimal_decimal, encode, Instr.opcode, Instr.operand]
  | bxc x =>
    by_cases hx : x = 0
    · subst hx
      decide
    · rw [Instr.text, if_neg hx, assemble, stripComment_withOperand (solid_decimal x)]
      simp [withOperand, Instr.mnemonic, parseDecimal_decimal, encode, Instr.opcode, Instr.operand]

theorem disassemble_of_eight_le (h : 8 ≤ opc.toNat) (opd : Byte) :
    disassemble opc opd = ['.', 'p', 'a', 'i', 'r', ' '] ++ (decimal opc ++ ',' :: decimal opd) := by
  rw [disassemble, decode_of_eight_le h]
  simp

theorem assemble_pair (h : 8 ≤ opc.toNat) (opd : Byte) :
    assemble (['.', 'p', 'a', 'i', 'r', ' '] ++ (decimal opc ++ ',' :: decimal opd)) = some (opc, opd) := by
  have hsolid : Solid (decimal opc ++ ',' :: decimal opd) :=
    (solid_decimal opc).append ((solid_singleton (by decide) (by decide)).append (solid_decimal opd))
  rw [assemble, stripComment_append_solid (by decide) hsolid]
  exact parsePair_decimal h opd

/-- Settles O6: a pair with a defined opcode is the encoding of its instruction, whose text assembles to it; any other
is written as `.pair`. -/
theorem assembleOfDisassembleIsIdentity : Obligations.AssembleOfDisassembleIsIdentity := by
  intro opc opd
  cases hdecode : decode opc opd with
  | ok i =>
    calc assemble (disassemble opc opd)
        = assemble (Instr.text i) := by rw [disassemble, hdecode]
      _ = some (encode i) := assemble_text (decode_wf hdecode)
      _ = some (opc, opd) := by rw [encode_of_decode hdecode]
  | error e =>
    have hillegal : 8 ≤ opc.toNat := decode_error hdecode
    rw [disassemble_of_eight_le hillegal, assemble_pair hillegal]

end Sys2Proof.Machine

/-! ## The dispatch loop

The tests before the fetch (R90, R91), then how an instruction that completes moves IP and STEPS (R95, R96). -/

namespace Sys2Proof.Machine

variable {i : Instr} {s t : State}

/-! ### The tests before the fetch -/

/-- Settles O23: the halt test is the first test of a running block. -/
theorem haltTestEndsTheRun : Obligations.HaltTestEndsTheRun := by
  intro s hready hend
  have ⟨hrunning, _⟩ := hready
  calc step s
      = blockStep s := step_of_ready hready
    _ = .next s.halt := blockStep_atEnd hrunning hend

/-- Settles O31: with no host move to make, the step is that of a block that does not run. -/
theorem noStepOutsideRunning : Obligations.NoStepOutsideRunning := by
  intro s hr hcause
  refine ⟨fun hmoves => ?_, fun rest hmoves => ?_⟩
  · rw [step_nil hcause hmoves, blockStep_not_running hr]
  · rw [step_wait hcause hmoves, blockStep_not_running (s := { s with hostMoves := rest }) hr]

/-! ### IP after an instruction -/

/-- An instruction advances by two, jumps, or raises a fault (R95, R130, R150). -/
theorem exec_ip_cases (h : exec i s = .next t) :
    ((∀ k, i = .jnz k → s.a = 0) ∧ t.ip = s.ip + 2) ∨
      (∃ k, i = .jnz k ∧ s.a ≠ 0 ∧ t.ip = k.setWidth 16) ∨ t.runState = .faulted := by
  rcases exec_next_cases h with ⟨r, v, hdest, rfl⟩ | ⟨k, hi, ha, rfl⟩ | ⟨_, _, ha, rfl⟩ | ⟨_, _, rfl, _, rfl⟩ |
    ⟨_, _, _, rfl⟩ | ⟨_, rfl⟩
  · refine .inl ⟨?_, by simp⟩
    rintro k rfl
    exact absurd hdest nofun
  · exact .inr (.inl ⟨k, hi, ha, rfl⟩)
  · exact .inl ⟨fun _ _ => ha, rfl⟩
  · exact .inl ⟨nofun, rfl⟩
  · exact .inr (.inr rfl)
  · exact .inr (.inr rfl)

/-- Settles O18. -/
theorem everyInstructionButATakenJnzAdvancesByTwo : Obligations.EveryInstructionButATakenJnzAdvancesByTwo := by
  intro i s t _ h hrunning
  rcases exec_ip_cases h with ⟨hzero, hip⟩ | ⟨k, rfl, ha, hip⟩ | hfaulted
  · exact ⟨fun _ => hip, fun k hi ha => absurd (hzero k hi) ha⟩
  · refine ⟨fun hzero => absurd (hzero k rfl) ha, fun k' hk _ => ?_⟩
    injection hk with hk
    exact hk ▸ hip
  · exact absurd (hrunning.symm.trans hfaulted) nofun

/-! ### STEPS after a step -/

/-- An instruction that leaves STATE has completed and is counted; any other raises a fault (R96, R150). -/
theorem exec_counted_or_raised (h : exec i s = .next t) :
    (t.runState = s.runState ∧ t.steps = s.steps + 1) ∨ ∃ e, t = s.raise e := by
  rcases exec_next_cases h with ⟨r, v, _, rfl⟩ | ⟨_, _, _, rfl⟩ | ⟨_, _, _, rfl⟩ | ⟨_, _, _, _, rfl⟩ |
    ⟨_, _, _, rfl⟩ | ⟨_, rfl⟩
  · exact .inl (by simp)
  · exact .inl ⟨rfl, rfl⟩
  · exact .inl ⟨rfl, rfl⟩
  · exact .inl ⟨rfl, rfl⟩
  · exact .inr ⟨_, rfl⟩
  · exact .inr ⟨_, rfl⟩

/-- A step of a run counts an instruction below the step cap, or ends the run and leaves STEPS (R92, R96). -/
theorem step_counted_or_ended (hready : s.Ready) (h : step s = .next t) :
    (t.runState = .running ∧ t.steps = s.steps + 1 ∧ ¬s.atLimit) ∨
      ((t.runState = .halted ∨ t.runState = .faulted) ∧ t.steps = s.steps) := by
  have ⟨hrunning, _⟩ := hready
  rw [step_of_ready hready] at h
  rcases blockStep_next_cases h with ⟨hr, _⟩ | ⟨_, _, rfl⟩ | ⟨_, _, _, rfl⟩ | ⟨_, _, _, _, rfl⟩ |
    ⟨_, _, hlimit, _, _, hexec⟩
  · exact absurd hrunning hr
  · exact .inr ⟨.inl rfl, rfl⟩
  · exact .inr ⟨.inr rfl, rfl⟩
  · exact .inr ⟨.inr rfl, rfl⟩
  · rcases exec_counted_or_raised hexec with ⟨hsame, hsteps⟩ | ⟨e, rfl⟩
    · exact .inl ⟨hsame.trans hrunning, hsteps, hlimit⟩
    · exact .inr ⟨.inr rfl, rfl⟩

/-- Settles O29. -/
theorem stepsCountsCompletedInstructions : Obligations.StepsCountsCompletedInstructions := by
  intro s t hready h
  rcases step_counted_or_ended hready h with ⟨hrunning, hsteps, _⟩ | ⟨hended, hsteps⟩
  · exact ⟨fun _ => hsteps, fun hr => absurd hrunning hr⟩
  · refine ⟨fun hrunning => ?_, fun _ => hsteps⟩
    rcases hended with hended | hended <;> exact absurd (hrunning.symm.trans hended) nofun

end Sys2Proof.Machine

/-! ## Progress

Under the invariant the model neither faults nor refuses: CAUSE holds no reserved code, the fetch stays inside PMEM and the
append inside TAPE. -/

namespace Sys2Proof.Machine

variable {s t : State}

theorem withCombo_exists_next (o : Combo) (s : State) {arm : Word → Result} (harm : ∀ v, ∃ t, arm v = .next t) :
    ∃ t, withCombo o s arm = .next t := by
  rcases withCombo_cases o s arm with ⟨v, _, he⟩ | ⟨_, he⟩
  · rw [he]
    exact harm v
  · exact ⟨_, he⟩

theorem emit_exists_next (htlen : s.tlen ≤ s.params.tapeCap) (v : Digit) : ∃ t, emit v s = .next t := by
  rcases emit_cases v s with ⟨_, he⟩ | ⟨hlt, _⟩ | ⟨_, he⟩
  · exact ⟨_, he⟩
  · exact absurd hlt (Nat.not_lt.mpr htlen)
  · exact ⟨_, he⟩

/-- Of the eight instructions only out can stop the model, and only with TLEN above TAPE_CAP. -/
theorem exec_exists_next (i : Instr) (htlen : s.tlen ≤ s.params.tapeCap) : ∃ t, exec i s = .next t := by
  cases i with
  | adv o => exact withCombo_exists_next o s fun _ => ⟨_, rfl⟩
  | bxl k => exact ⟨_, rfl⟩
  | bst o => exact withCombo_exists_next o s fun _ => ⟨_, rfl⟩
  | jnz k =>
    by_cases ha : s.a = 0
    · exact ⟨_, execJnz_not_taken k ha⟩
    · exact ⟨_, execJnz_taken k ha⟩
  | bxc x => exact ⟨_, rfl⟩
  | out o => exact withCombo_exists_next o s fun v => emit_exists_next htlen (v.setWidth 3)
  | bdv o => exact withCombo_exists_next o s fun _ => ⟨_, rfl⟩
  | cdv o => exact withCombo_exists_next o s fun _ => ⟨_, rfl⟩

theorem decodeAndExec_exists_next (opc opd : Byte) (htlen : s.tlen ≤ s.params.tapeCap) :
    ∃ t, decodeAndExec opc opd s = .next t := by
  unfold decodeAndExec
  cases decode opc opd with
  | error e => exact ⟨_, rfl⟩
  | ok i => exact exec_exists_next i htlen

/-- Where the halt test fails, IP + 1 is below PLEN and so inside PMEM (R91, R93). -/
theorem blockStep_exists_next (hi : s.Inv) : ∃ t, blockStep s = .next t := by
  obtain ⟨_, hplen, _, ⟨htlen, _⟩, _⟩ := hi
  by_cases hr : s.runState = .running
  · by_cases hend : s.atEnd
    · exact ⟨_, blockStep_atEnd hr hend⟩
    · by_cases hlimit : s.atLimit
      · exact ⟨_, blockStep_atLimit hr hend hlimit⟩
      · have hpmem : s.ip.toNat + 1 < Config.progCap := Nat.lt_of_lt_of_le (Nat.not_le.mp hend) hplen
        rw [blockStep_fetched hr hend hlimit hpmem]
        exact decodeAndExec_exists_next _ _ htlen
  · exact ⟨_, blockStep_not_running hr⟩

/-- CAUSE holds no reserved code (R33, R151). -/
theorem State.Inv.cause_le_four (hi : s.Inv) : s.cause.toNat ≤ 4 := by
  obtain ⟨_, _, _, _, ⟨hfaulted, hother⟩, _⟩ := hi
  by_cases hr : s.runState = .faulted
  · obtain ⟨_, hle⟩ := hfaulted hr
    exact hle
  · simp [hother hr]

theorem step_exists_next (hi : s.Inv) : ∃ t, step s = .next t := by
  have hcause : s.cause.toNat ≤ 4 := hi.cause_le_four
  cases hmoves : s.hostMoves with
  | nil =>
    rw [step_nil hcause hmoves]
    exact blockStep_exists_next hi
  | cons move rest =>
    by_cases hwait : move = .wait
    · subst hwait
      rw [step_wait hcause hmoves]
      exact blockStep_exists_next (hi.withHostMoves rest)
    · exact ⟨_, step_move hcause hmoves hwait⟩

/-- Settles O50. -/
theorem everyInvariantStateHasANextState : Obligations.EveryInvariantStateHasANextState :=
  fun _ hi => step_exists_next hi

end Sys2Proof.Machine

/-! ## Termination

STEP_LIMIT - STEPS is the number of instructions a run may still complete, and each step that does not end the run lowers it
by one (R92, R96, R101). -/

namespace Sys2Proof.Machine

variable {s t : State}

/-! ### The state that START leads to -/

/-- The state after the host's last move, START. -/
def State.started (s : State) : State := { s with hostMoves := [] }.hostMove .start

theorem step_start (hi : s.Inv) (hmoves : s.hostMoves = [.start]) : step s = .next s.started :=
  step_move hi.cause_le_four hmoves nofun

theorem State.Inv.started (hi : s.Inv) : s.started.Inv := (hi.withHostMoves []).hostMove .start

/-- The whole state after a START that is not ignored (R182). -/
theorem State.started_eq (hr : s.runState ≠ .running) :
    s.started =
      { s with
        a := s.initA
        b := s.initB
        c := s.initC
        ip := 0
        tlen := 0
        steps := 0
        cause := 0
        runState := .running
        hostMoves := []
        reply := none } := by
  rw [State.started, State.hostMove, State.start_of_not_running { s with hostMoves := [] } hr]
  rfl

theorem State.started_ready (hr : s.runState ≠ .running) : s.started.Ready := by
  rw [State.started_eq hr]
  exact ⟨rfl, rfl, rfl⟩

/-! ### The measure -/

theorem blockStep_hostMoves (h : blockStep s = .next t) : t.hostMoves = s.hostMoves := by
  obtain ⟨_, _, _, _, _, _, _, hmoves, _⟩ := blockStep_sameOutsideInstructions h
  exact hmoves

/-- A step that does not end the run leaves a block that is ready for the next one. -/
theorem step_keeps_ready (hi : s.Inv) (hready : s.Ready) (h : step s = .next t) (hrunning : t.runState = .running) :
    t.Ready := by
  have ⟨_, _, hmoves⟩ := hready
  obtain ⟨_, _, _, _, ⟨_, hcause⟩, _⟩ : t.Inv := step_keeps_inv hi h
  rw [step_of_ready hready] at h
  exact ⟨hrunning, hcause (by simp [hrunning]), (blockStep_hostMoves h).trans hmoves⟩

theorem step_params_of_ready (hready : s.Ready) (h : step s = .next t) : t.params = s.params := by
  rw [step_of_ready hready] at h
  obtain ⟨_, _, _, _, hparams, _⟩ := blockStep_sameOutsideInstructions h
  exact hparams

/-- A run with `n` instructions to go before the step cap ends within `n + 1` steps. -/
theorem run_ends {n : Nat} (hi : s.Inv) (hready : s.Ready) (hn : s.steps + n = s.params.stepLimit) :
    ∃ k ≤ n + 1, ∃ t : State, run k s = .next t ∧ (t.runState = .halted ∨ t.runState = .faulted) := by
  induction n generalizing s with
  | zero =>
    obtain ⟨u, hstep⟩ := step_exists_next hi
    rcases step_counted_or_ended hready hstep with ⟨_, _, hlimit⟩ | ⟨hended, _⟩
    · exact absurd hn hlimit
    · exact ⟨1, le_rfl, u, run_succ hstep 0, hended⟩
  | succ n ih =>
    obtain ⟨u, hstep⟩ := step_exists_next hi
    rcases step_counted_or_ended hready hstep with ⟨hrunning, hsteps, _⟩ | ⟨hended, _⟩
    · have hn' : u.steps + n = u.params.stepLimit := by
        rw [step_params_of_ready hready hstep]
        omega
      obtain ⟨k, hk, t, hrun, hended⟩ :=
        ih (step_keeps_inv hi hstep) (step_keeps_ready hi hready hstep hrunning) hn'
      exact ⟨k + 1, Nat.succ_le_succ hk, t, (run_succ hstep k).trans hrun, hended⟩
    · exact ⟨1, Nat.succ_le_succ (Nat.zero_le _), u, run_succ hstep 0, hended⟩

/-- Settles O51: START leaves all STEP_LIMIT instructions to go. -/
theorem everyRunEndsWithinTheStepBound : Obligations.EveryRunEndsWithinTheStepBound := by
  intro s hi hr hmoves
  refine ⟨?_, fun u t hready h => ⟨fun hrunning => ?_, fun hlimit => ?_⟩⟩
  · have hn : s.started.steps + s.params.stepLimit = s.started.params.stepLimit := by
      simp [State.started_eq hr]
    obtain ⟨k, hk, t, hrun, hended⟩ := run_ends hi.started (State.started_ready hr) hn
    refine ⟨k, hk, t, ?_, hended⟩
    rw [Nat.add_comm, run_succ (step_start hi hmoves), hrun]
  · exact (stepsCountsCompletedInstructions u t hready h).1 hrunning
  · rcases step_counted_or_ended hready h with ⟨_, _, hbelow⟩ | ⟨hended, _⟩
    · exact absurd hlimit hbelow
    · exact hended

end Sys2Proof.Machine

/-! ## Determinism

A simulation between two machines that run the same program: `State.SameRun` relates them, the operations of the block keep
it one by one, and so does the block's step (R100). -/

namespace Sys2Proof.Machine

variable {s t : State}

/-- Two blocks in the middle of the same run: they agree on the result tuple of R183, on the program, and on the two caps.
The memories may list different cells, and nothing is said of the tape from TLEN on. -/
structure State.SameRun (s t : State) : Prop where
  runState : t.runState = s.runState
  cause : t.cause = s.cause
  a : t.a = s.a
  b : t.b = s.b
  c : t.c = s.c
  ip : t.ip = s.ip
  steps : t.steps = s.steps
  tlen : t.tlen = s.tlen
  emitted : t.emitted = s.emitted
  plen : t.plen = s.plen
  program : ∀ j < s.plen.toNat, t.pmemByte j = s.pmemByte j
  stepLimit : t.params.stepLimit = s.params.stepLimit
  tapeCap : t.params.tapeCap = s.params.tapeCap

/-- The same answer of two blocks in the same run: next states in the same run, or the same fault of the model. -/
inductive Result.Agree : Result → Result → Prop
  | next {u v : State} (h : u.SameRun v) : Result.Agree (.next u) (.next v)
  | fault (f : Fault) : Result.Agree (.fault f) (.fault f)

theorem Result.Agree.exists_next {u : State} {r : Result} (h : Result.Agree (.next u) r) :
    ∃ v, r = .next v ∧ u.SameRun v := by
  cases h with
  | next hsame => exact ⟨_, rfl, hsame⟩

theorem State.SameRun.result_eq (h : s.SameRun t) : t.result = s.result := by
  simp only [State.result, h.runState, h.cause, h.emitted, h.a, h.b, h.c, h.ip, h.steps]

/-! ### Reads and tests -/

theorem State.SameRun.readReg (h : s.SameRun t) (r : Reg) : t.readReg r = s.readReg r := by
  cases r with
  | A => exact h.a
  | B => exact h.b
  | C => exact h.c

theorem State.SameRun.resolveCombo (h : s.SameRun t) (o : Combo) :
    Machine.resolveCombo o t = Machine.resolveCombo o s := by
  cases o with
  | lit n => rfl
  | reg r => exact congrArg some (h.readReg r)
  | invalid opd => rfl

theorem State.SameRun.atEnd_iff (h : s.SameRun t) : t.atEnd ↔ s.atEnd := by
  rw [State.atEnd, State.atEnd, h.ip, h.plen]

theorem State.SameRun.atLimit_iff (h : s.SameRun t) : t.atLimit ↔ s.atLimit := by
  rw [State.atLimit, State.atLimit, h.steps, h.stepLimit]

/-- Where the halt test fails both bytes belong to the program, so the fetches read the same (R91, R93). -/
theorem State.SameRun.fetch_eq (h : s.SameRun t) (hend : ¬s.atEnd) : fetch t = fetch s := by
  have hlt : s.ip.toNat + 1 < s.plen.toNat := Nat.not_le.mp hend
  have hopc : t.pmemByte s.ip.toNat = s.pmemByte s.ip.toNat := h.program _ (Nat.lt_of_succ_lt hlt)
  have hopd : t.pmemByte (s.ip.toNat + 1) = s.pmemByte (s.ip.toNat + 1) := h.program _ hlt
  simp only [fetch, memRead, h.ip, hopc, hopd]

/-! ### Updates -/

theorem State.SameRun.raise (h : s.SameRun t) (e : FaultCause) : (s.raise e).SameRun (t.raise e) :=
  { h with runState := rfl, cause := rfl }

theorem State.SameRun.halt (h : s.SameRun t) : s.halt.SameRun t.halt :=
  { h with runState := rfl }

theorem State.SameRun.retireAt (h : s.SameRun t) (target : IpWord) : (s.retireAt target).SameRun (t.retireAt target) :=
  { h with ip := rfl, steps := congrArg (· + 1) h.steps }

theorem State.SameRun.advance (h : s.SameRun t) : s.advance.SameRun t.advance := by
  rw [State.advance, State.advance, h.ip]
  exact h.retireAt (s.ip + 2)

theorem State.SameRun.writeReg (h : s.SameRun t) (r : Reg) (v : Word) : (s.writeReg r v).SameRun (t.writeReg r v) := by
  cases r with
  | A => exact { h with a := rfl }
  | B => exact { h with b := rfl }
  | C => exact { h with c := rfl }

/-- An append adds one digit at the end of what the run has emitted (R26, R140). -/
theorem State.emitted_tapeAppend (s : State) (v : Digit) : (s.tapeAppend v).emitted = s.emitted ++ [v] := by
  have hold : (List.range s.tlen).map (s.tapeAppend v).tapeEntry = s.emitted :=
    List.map_congr_left fun j hj => State.tapeEntry_tapeAppend_other s v (Nat.ne_of_lt (List.mem_range.mp hj))
  rw [State.emitted, State.tapeAppend_tlen, List.range_succ, List.map_append, hold, List.map_singleton,
    State.tapeEntry_tapeAppend_same]

theorem State.SameRun.tapeAppend (h : s.SameRun t) (v : Digit) : (s.tapeAppend v).SameRun (t.tapeAppend v) :=
  have hemitted : (t.tapeAppend v).emitted = (s.tapeAppend v).emitted := by
    rw [State.emitted_tapeAppend, State.emitted_tapeAppend, h.emitted]
  { h with tlen := congrArg (· + 1) h.tlen, emitted := hemitted }

/-! ### Instructions -/

theorem withCombo_agree (h : s.SameRun t) (o : Combo) {arm arm' : Word → Result}
    (harm : ∀ v, Result.Agree (arm v) (arm' v)) : Result.Agree (withCombo o s arm) (withCombo o t arm') := by
  have hresolve := h.resolveCombo o
  rcases withCombo_cases o s arm with ⟨v, hv, he⟩ | ⟨hnone, he⟩
  · rw [he, withCombo_of_some (hresolve.trans hv)]
    exact harm v
  · rw [he, withCombo_of_none (hresolve.trans hnone)]
    exact .next (h.raise .invalidOperand)

/-- The same register gets the same value, and both blocks advance. -/
theorem writeReg_advance_agree (h : s.SameRun t) (r : Reg) {v v' : Word} (hv : v' = v) :
    Result.Agree (.next (s.writeReg r v).advance) (.next (t.writeReg r v').advance) :=
  .next (hv ▸ (h.writeReg r v).advance)

/-- The three shifts (R111 to R113). -/
theorem shift_agree (h : s.SameRun t) (r : Reg) (n : Word) :
    Result.Agree (.next (s.writeReg r (shiftRight (s.readReg .A) n)).advance)
      (.next (t.writeReg r (shiftRight (t.readReg .A) n)).advance) :=
  writeReg_advance_agree h r (by rw [h.readReg])

theorem emit_agree (h : s.SameRun t) (v : Digit) : Result.Agree (emit v s) (emit v t) := by
  unfold emit
  rw [h.tlen, h.tapeCap]
  split_ifs
  · exact .next (h.raise .tapeOverflow)
  · exact .fault _
  · exact .next (h.tapeAppend v).advance

theorem execJnz_agree (h : s.SameRun t) (k : Byte) : Result.Agree (execJnz k s) (execJnz k t) := by
  by_cases ha : s.a = 0
  · rw [execJnz_not_taken k ha, execJnz_not_taken k (h.a.trans ha)]
    exact .next h.advance
  · rw [execJnz_taken k ha, execJnz_taken k (h.a.trans_ne ha)]
    exact .next (h.retireAt _)

theorem exec_agree (h : s.SameRun t) (i : Instr) : Result.Agree (exec i s) (exec i t) := by
  cases i with
  | adv o => exact withCombo_agree h o (shift_agree h .A)
  | bxl k => exact writeReg_advance_agree h .B (by rw [h.readReg])
  | bst o => exact withCombo_agree h o fun _ => writeReg_advance_agree h .B rfl
  | jnz k => exact execJnz_agree h k
  | bxc x => exact writeReg_advance_agree h .B (by rw [h.readReg, h.readReg])
  | out o => exact withCombo_agree h o fun v => emit_agree h (v.setWidth 3)
  | bdv o => exact withCombo_agree h o (shift_agree h .B)
  | cdv o => exact withCombo_agree h o (shift_agree h .C)

/-! ### Steps and runs -/

theorem decodeAndExec_agree (h : s.SameRun t) (opc opd : Byte) :
    Result.Agree (decodeAndExec opc opd s) (decodeAndExec opc opd t) := by
  unfold decodeAndExec
  cases decode opc opd with
  | error e => exact .next (h.raise .invalidOpcode)
  | ok i => exact exec_agree h i

theorem blockStep_agree (h : s.SameRun t) : Result.Agree (blockStep s) (blockStep t) := by
  by_cases hr : s.runState = .running
  · have hr' : t.runState = .running := h.runState.trans hr
    by_cases hend : s.atEnd
    · rw [blockStep_atEnd hr hend, blockStep_atEnd hr' (h.atEnd_iff.mpr hend)]
      exact .next h.halt
    · have hend' : ¬t.atEnd := mt h.atEnd_iff.mp hend
      by_cases hlimit : s.atLimit
      · rw [blockStep_atLimit hr hend hlimit, blockStep_atLimit hr' hend' (h.atLimit_iff.mpr hlimit)]
        exact .next (h.raise .executionLimitExceeded)
      · unfold blockStep
        rw [if_neg (not_not.mpr hr), if_neg (not_not.mpr hr'), if_neg hend, if_neg hend', if_neg hlimit,
          if_neg (mt h.atLimit_iff.mp hlimit), h.fetch_eq hend]
        rcases fetch s with f | ⟨opc, opd⟩
        · exact .fault f
        · exact decodeAndExec_agree h opc opd
  · rw [blockStep_not_running hr, blockStep_not_running (h.runState.trans_ne hr)]
    exact .next h

/-- Two blocks that the host leaves alone stay in the same run. -/
theorem run_sameRun (n : Nat) (hi : s.Inv) (hs : s.hostMoves = []) (ht : t.hostMoves = []) (h : s.SameRun t) :
    ∃ u v : State, run n s = .next u ∧ run n t = .next v ∧ u.SameRun v := by
  induction n generalizing s t with
  | zero => exact ⟨s, t, rfl, rfl, h⟩
  | succ n ih =>
    have hcause : s.cause.toNat ≤ 4 := hi.cause_le_four
    have hstep : step s = blockStep s := step_nil hcause hs
    have hstep' : step t = blockStep t := step_nil (h.cause ▸ hcause) ht
    obtain ⟨u, hu⟩ := blockStep_exists_next hi
    obtain ⟨v, hv, hsame⟩ := (hu ▸ blockStep_agree h).exists_next
    rw [run_succ (hstep.trans hu), run_succ (hstep'.trans hv)]
    exact ih (blockStep_keeps_inv hi hu) ((blockStep_hostMoves hu).trans hs) ((blockStep_hostMoves hv).trans ht) hsame

/-- START makes the same run of the same inputs (R100, R182). -/
theorem State.SameRunInputs.started (h : s.SameRunInputs t) (hs : s.runState ≠ .running) (ht : t.runState ≠ .running) :
    s.started.SameRun t.started := by
  obtain ⟨hplen, ha, hb, hc, hstepLimit, htapeCap, hprogram⟩ := h
  rw [State.started_eq hs, State.started_eq ht]
  exact
    { runState := rfl
      cause := rfl
      a := ha
      b := hb
      c := hc
      ip := rfl
      steps := rfl
      tlen := rfl
      emitted := rfl
      plen := hplen
      program := hprogram
      stepLimit := hstepLimit
      tapeCap := htapeCap }

/-- Settles O52. -/
theorem runsFromTheSameInputsHaveTheSameResult : Obligations.RunsFromTheSameInputsHaveTheSameResult := by
  intro s t n hi hi' hs ht hmoves hmoves' hinputs
  have ⟨_, _, hwaits⟩ := State.started_ready hs
  have ⟨_, _, hwaits'⟩ := State.started_ready ht
  obtain ⟨u, v, hu, hv, hsame⟩ := run_sameRun n hi.started hwaits hwaits' (hinputs.started hs ht)
  exact ⟨u, v, (run_succ (step_start hi hmoves) n).trans hu, (run_succ (step_start hi' hmoves') n).trans hv,
    hsame.result_eq⟩

end Sys2Proof.Machine

/-! ## The shifts

The shift is floor division (R110) and adv, bdv and cdv differ only in the register they write (R111 to R113). -/

namespace Sys2Proof.Machine

variable {s : State} {opd : Byte}

/-! ### The value of a shift -/

/-- A word is below 2^64, so from the register width on the quotient is 0 too (R110). -/
theorem shiftRight_toNat (v n : Word) : (shiftRight v n).toNat = v.toNat / 2 ^ n.toNat := by
  unfold shiftRight
  split
  case isTrue => rw [BitVec.toNat_ushiftRight, Nat.shiftRight_eq_div_pow]
  case isFalse hwide =>
    have hlt : v.toNat < 2 ^ n.toNat := v.isLt.trans_le (Nat.pow_le_pow_right Nat.two_pos (Nat.not_lt.mp hwide))
    rw [Nat.div_eq_of_lt hlt]
    rfl

theorem shiftRight_eq_ofNat (v n : Word) : shiftRight v n = BitVec.ofNat 64 (v.toNat / 2 ^ n.toNat) := by
  rw [← shiftRight_toNat, BitVec.ofNat_toNat, BitVec.setWidth_eq]

theorem shiftRight_of_width_le {n : Word} (h : 64 ≤ n.toNat) (v : Word) : shiftRight v n = 0 :=
  if_neg (Nat.not_lt.mpr h)

theorem shiftRight_of_amount_zero {n : Word} (h : n.toNat = 0) (v : Word) : shiftRight v n = v := by
  apply BitVec.eq_of_toNat_eq
  rw [shiftRight_toNat, h, Nat.pow_zero, Nat.div_one]

/-- Every number is below its power of two, so a register shifted by its own value gives 0 (R111 to R113). -/
theorem shiftRight_self (v : Word) : shiftRight v v = 0 := by
  apply BitVec.eq_of_toNat_eq
  rw [shiftRight_toNat, Nat.div_eq_of_lt Nat.lt_two_pow_self]
  rfl

/-- Settles O8. -/
theorem shiftRightIsFloorDivision : Obligations.ShiftRightIsFloorDivision :=
  fun v n => ⟨shiftRight_toNat v n, fun hwide => shiftRight_of_width_le hwide v⟩

/-! ### The value of a legal combo operand -/

theorem comboValue_of_le_three (h : opd.toNat ≤ 3) (s : State) : comboValue s opd = opd.toNat := by
  obtain ⟨hA, hB, hC⟩ : opd ≠ 4 ∧ opd ≠ 5 ∧ opd ≠ 6 := by bv_omega
  rw [comboValue, if_neg hA, if_neg hB, if_neg hC]

theorem resolveCombo_of_le_six (h : opd.toNat ≤ 6) (s : State) :
    ∃ v, resolveCombo (Combo.ofByte opd) s = some v ∧ v.toNat = comboValue s opd := by
  have hrows : opd.toNat ≤ 3 ∨ opd = 4 ∨ opd = 5 ∨ opd = 6 := by bv_omega
  rcases hrows with hliteral | rfl | rfl | rfl
  · rw [comboValue_of_le_three hliteral]
    exact resolveCombo_of_le_three hliteral s
  · exact ⟨s.a, rfl, rfl⟩
  · exact ⟨s.b, rfl, rfl⟩
  · exact ⟨s.c, rfl, rfl⟩

/-! ### A shift into a register -/

/-- What adv, bdv and cdv have in common: register A shifted by a combo operand, into register `r`. -/
def shiftInto (r : Reg) (o : Combo) (s : State) : Result :=
  withCombo o s fun n => .next (s.writeReg r (shiftRight s.a n)).advance

theorem exec_adv (o : Combo) (s : State) : exec (.adv o) s = shiftInto .A o s := rfl
theorem exec_bdv (o : Combo) (s : State) : exec (.bdv o) s = shiftInto .B o s := rfl
theorem exec_cdv (o : Combo) (s : State) : exec (.cdv o) s = shiftInto .C o s := rfl

/-- A shift by a legal operand byte completes, and the amount is the value the byte denotes. -/
theorem shiftInto_of_le_six (r : Reg) (h : opd.toNat ≤ 6) (s : State) :
    ∃ n : Word, n.toNat = comboValue s opd ∧
      shiftInto r (Combo.ofByte opd) s = .next (s.writeReg r (shiftRight s.a n)).advance := by
  obtain ⟨n, hresolve, hn⟩ := resolveCombo_of_le_six h s
  exact ⟨n, hn, withCombo_of_some hresolve _⟩

theorem shiftInto_eq_floor (r : Reg) (h : opd.toNat ≤ 6) (s : State) :
    shiftInto r (Combo.ofByte opd) s =
      .next (s.writeReg r (BitVec.ofNat 64 (s.a.toNat / 2 ^ comboValue s opd))).advance := by
  obtain ⟨n, hn, hshift⟩ := shiftInto_of_le_six r h s
  rw [hshift, shiftRight_eq_ofNat, hn]

theorem shiftInto_of_amount_zero (r : Reg) (h : opd.toNat ≤ 6) (hzero : comboValue s opd = 0) :
    ∃ t, shiftInto r (Combo.ofByte opd) s = .next t ∧ t.readReg r = s.a := by
  obtain ⟨n, hn, hshift⟩ := shiftInto_of_le_six r h s
  exact ⟨_, hshift, by simp [shiftRight_of_amount_zero (hn.trans hzero)]⟩

theorem shiftInto_of_width_le (r : Reg) (h : opd.toNat ≤ 6) (hwide : 64 ≤ comboValue s opd) :
    ∃ t, shiftInto r (Combo.ofByte opd) s = .next t ∧ t.readReg r = 0 := by
  obtain ⟨n, hn, hshift⟩ := shiftInto_of_le_six r h s
  exact ⟨_, hshift, by simp [shiftRight_of_width_le (hn ▸ hwide)]⟩

/-- Operand byte 4 shifts A by its own value. -/
theorem shiftInto_by_A (r : Reg) (s : State) :
    ∃ t, shiftInto r (Combo.ofByte 4) s = .next t ∧ t.readReg r = 0 :=
  ⟨(s.writeReg r (shiftRight s.a s.a)).advance, rfl, by simp [shiftRight_self]⟩

/-- An illegal operand byte stops the shift before it writes anything (R98). -/
theorem shiftInto_of_seven_le (r : Reg) (h : 7 ≤ opd.toNat) (s : State) :
    shiftInto r (Combo.ofByte opd) s = .next (s.raise .invalidOperand) := by
  rw [Combo.ofByte_of_seven_le h]
  exact withCombo_of_none (resolveCombo_invalid opd s) _

/-! ### The three instructions -/

/-- What R111, R112 and R113 say with `r` for the register written: the legal operand bytes, the illegal ones, and the
corners. -/
theorem shiftInto_spec (r : Reg) (s : State) (opd : Byte) :
    (opd.toNat ≤ 6 →
        shiftInto r (Combo.ofByte opd) s =
          .next (s.writeReg r (BitVec.ofNat 64 (s.a.toNat / 2 ^ comboValue s opd))).advance) ∧
      (7 ≤ opd.toNat → shiftInto r (Combo.ofByte opd) s = .next (s.raise .invalidOperand)) ∧
      (opd.toNat ≤ 6 → comboValue s opd = 0 → ∃ t, shiftInto r (Combo.ofByte opd) s = .next t ∧ t.readReg r = s.a) ∧
      (opd.toNat ≤ 6 → 64 ≤ comboValue s opd → ∃ t, shiftInto r (Combo.ofByte opd) s = .next t ∧ t.readReg r = 0) ∧
      (opd = 4 → ∃ t, shiftInto r (Combo.ofByte opd) s = .next t ∧ t.readReg r = 0) := by
  refine ⟨fun h => shiftInto_eq_floor r h s, fun h => shiftInto_of_seven_le r h s,
    fun h => shiftInto_of_amount_zero r h, fun h => shiftInto_of_width_le r h, ?_⟩
  rintro rfl
  exact shiftInto_by_A r s

/-- Settles O9: adv is the shift into A, and a write of A followed by the advance changes A, IP and STEPS. -/
theorem advShiftsAIntoA : Obligations.AdvShiftsAIntoA := by
  intro s opd
  simp only [exec_adv]
  exact ⟨decode_zero opd, shiftInto_spec .A s opd⟩

/-- Settles O10, as O9 with B written. -/
theorem bdvShiftsAIntoB : Obligations.BdvShiftsAIntoB := by
  intro s opd
  simp only [exec_bdv]
  exact ⟨decode_six opd, shiftInto_spec .B s opd⟩

/-- Settles O11, as O9 with C written. -/
theorem cdvShiftsAIntoC : Obligations.CdvShiftsAIntoC := by
  intro s opd
  simp only [exec_cdv]
  exact ⟨decode_seven opd, shiftInto_spec .C s opd⟩

end Sys2Proof.Machine

/-! ## Register logic

bxl and bxc are one operation, exclusive-or into B, with different right-hand sides (R120, R122); bst writes B with the low
three bits of a combo operand (R121). -/

namespace Sys2Proof.Machine

variable {s : State} {opd : Byte}

/-! ### Exclusive-or into B -/

/-- What bxl and bxc have in common: B xor `v` into B, and the sequential advance. -/
def State.xorIntoB (s : State) (v : Word) : State := (s.writeReg .B (s.b ^^^ v)).advance

theorem exec_bxl (k : Byte) (s : State) : exec (.bxl k) s = .next (s.xorIntoB (k.setWidth 64)) := rfl
theorem exec_bxc (x : Byte) (s : State) : exec (.bxc x) s = .next (s.xorIntoB s.c) := rfl

@[simp] theorem State.xorIntoB_b (s : State) (v : Word) : (s.xorIntoB v).b = s.b ^^^ v := rfl

theorem State.xorIntoB_eq (s : State) (v : Word) :
    s.xorIntoB v = { s with b := (s.xorIntoB v).b, ip := s.ip + 2, steps := s.steps + 1 } := rfl

theorem State.xorIntoB_b_of_zero {v : Word} (h : v = 0) (s : State) : (s.xorIntoB v).b = s.b := by
  simp [h]

theorem State.xorIntoB_b_of_eq {v : Word} (h : s.b = v) : (s.xorIntoB v).b = 0 := by
  simp [h]

/-- The second exclusive-or with the same value undoes the first. -/
theorem State.xorIntoB_xorIntoB_b (s : State) (v : Word) : ((s.xorIntoB v).xorIntoB v).b = s.b :=
  xor_cancel_right s.b v

/-! ### bxl -/

theorem toNat_zext_literal (k : Byte) : (k.setWidth 64 : Word).toNat = k.toNat :=
  BitVec.toNat_setWidth_of_le (by decide)

/-- A literal has no bit above bit 7, so it leaves bits 63 to 8 of what it is xored into (R120). -/
theorem xor_literal_div (n : Nat) (k : Byte) : (n ^^^ k.toNat) / 256 = n / 256 :=
  calc (n ^^^ k.toNat) / 256
      = n / 256 ^^^ k.toNat / 256 := Nat.xor_div_two_pow (n := 8)
    _ = n / 256 := by rw [Nat.div_eq_of_lt k.isLt, Nat.xor_zero]

/-- Settles O12: bxl is an exclusive-or into B with a value below 256. -/
theorem bxlXorsBWithTheLiteral : Obligations.BxlXorsBWithTheLiteral := by
  intro s k
  have hxor : (s.xorIntoB (k.setWidth 64)).b.toNat = s.b.toNat ^^^ k.toNat := by
    rw [State.xorIntoB_b, BitVec.toNat_xor, toNat_zext_literal]
  refine ⟨decode_one k, s.xorIntoB (k.setWidth 64), exec_bxl k s, s.xorIntoB_eq _, hxor, ?_, ?_,
    _, exec_bxl k _, s.xorIntoB_xorIntoB_b _⟩
  · rw [hxor, xor_literal_div]
  · rintro rfl
    exact State.xorIntoB_b_of_zero rfl s

/-! ### bst -/

theorem exec_bst (o : Combo) (s : State) :
    exec (.bst o) s = withCombo o s fun v => .next (s.writeReg .B (v % 8)).advance := rfl

theorem mod_eight_eq_ofNat (v : Word) : v % 8 = BitVec.ofNat 64 (v.toNat % 8) := by
  have hmod : (v % 8).toNat = v.toNat % 8 := BitVec.toNat_umod
  rw [← hmod, BitVec.ofNat_toNat, BitVec.setWidth_eq]

/-- bst with a legal operand byte completes (R121); the value the byte denotes is read before B is written (R99). -/
theorem exec_bst_of_le_six (h : opd.toNat ≤ 6) (s : State) :
    exec (.bst (Combo.ofByte opd)) s = .next (s.writeReg .B (BitVec.ofNat 64 (comboValue s opd % 8))).advance := by
  obtain ⟨v, hresolve, hv⟩ := resolveCombo_of_le_six h s
  rw [exec_bst, withCombo_of_some hresolve, mod_eight_eq_ofNat, hv]

/-- Settles O13: a legal operand byte by `exec_bst_of_le_six`, an illegal one as in every combo instruction. -/
theorem bstTakesTheComboModuloEight : Obligations.BstTakesTheComboModuloEight := by
  intro s opd
  refine ⟨decode_two opd, fun hlegal => exec_bst_of_le_six hlegal s,
    fun hillegal => exec_combo_of_seven_le hillegal (by simp [comboInstrs]) s,
    fun hlegal => ⟨_, exec_bst_of_le_six hlegal s, ?_⟩⟩
  rw [State.advance_b, State.writeReg_B_b, BitVec.toNat_ofNat]
  omega

/-! ### bxc -/

/-- Settles O14: the operand byte does not occur in what `exec_bxc` says. -/
theorem bxcXorsBWithCAndIgnoresItsOperand : Obligations.BxcXorsBWithCAndIgnoresItsOperand := by
  intro s x
  exact ⟨decode_four x, s.xorIntoB s.c, exec_bxc x s, s.xorIntoB_eq s.c, BitVec.toNat_xor s.b s.c,
    fun hzero => State.xorIntoB_b_of_zero hzero s, fun heq => State.xorIntoB_b_of_eq heq, fun y => exec_bxc y s⟩

end Sys2Proof.Machine

/-! ## Control transfer

jnz either writes its zero-extended operand byte into IP or advances by two, and counts as completed both ways (R130). -/

namespace Sys2Proof.Machine

variable {s : State} {k : Byte}

/-! ### jnz, taken and not taken -/

theorem exec_jnz_taken (h : s.a ≠ 0) (k : Byte) : exec (.jnz k) s = .next (s.retireAt (k.setWidth 16)) :=
  execJnz_taken k h

theorem exec_jnz_not_taken (h : s.a = 0) (k : Byte) : exec (.jnz k) s = .next s.advance :=
  execJnz_not_taken k h

/-- IP holds every target byte unchanged (R130). -/
theorem toNat_zext_target (k : Byte) : (k.setWidth 16 : IpWord).toNat = k.toNat :=
  BitVec.toNat_setWidth_of_le (by decide)

/-- Where the target is the next address the test of A makes no difference (R130). -/
theorem exec_jnz_to_next (h : k.setWidth 16 = s.ip + 2) : exec (.jnz k) s = .next s.advance := by
  by_cases ha : s.a = 0
  · exact exec_jnz_not_taken ha k
  · rw [exec_jnz_taken ha, h, State.advance]

theorem State.retireAt_self (s : State) : s.retireAt s.ip = { s with steps := s.steps + 1 } := rfl

/-- Settles O15: A decides between the jump and the advance, except where both lead to one address. -/
theorem jnzJumpsExactlyWhenAIsNotZero : Obligations.JnzJumpsExactlyWhenAIsNotZero := by
  intro s k
  refine ⟨decode_three k, fun ha => ⟨_, exec_jnz_taken ha k, rfl, toNat_zext_target k⟩,
    fun ha => exec_jnz_not_taken ha k, fun hnext => exec_jnz_to_next hnext, fun ha hself => ?_⟩
  rw [exec_jnz_taken ha, hself, State.retireAt_self]

/-! ### The check of the target -/

/-- A completed instruction leaves the block ready, whatever the next address is (R131). -/
theorem State.Ready.retireAt (h : s.Ready) (target : IpWord) : (s.retireAt target).Ready := h

/-- Settles O17: the jump itself checks nothing; the halt test of the next step compares the target with PLEN (R91). -/
theorem jumpPastTheEndHaltsAtTheNextStep : Obligations.JumpPastTheEndHaltsAtTheNextStep := by
  intro s k hready ha
  have hready' : (s.retireAt (k.setWidth 16)).Ready := hready.retireAt _
  refine ⟨_, exec_jnz_taken ha k, toNat_zext_target k, hready', fun hpast => ?_⟩
  apply haltTestEndsTheRun _ hready'
  rwa [State.retireAt_plen, State.retireAt_ip, toNat_zext_target]

end Sys2Proof.Machine

/-! ## Output

out emits the low three bits of a combo operand (R140). The operand is resolved first, so an illegal operand byte faults
whatever the tape holds, and a full tape faults only on a legal one (R157). -/

namespace Sys2Proof.Machine

variable {s : State} {opd : Byte}

/-! ### The append -/

theorem emit_of_room (h : s.tlen < s.params.tapeCap) (v : Digit) : emit v s = .next (s.tapeAppend v).advance := by
  rcases emit_cases v s with ⟨hfull, _⟩ | ⟨hbeyond, _⟩ | ⟨_, he⟩
  · exact absurd hfull (Nat.ne_of_lt h)
  · exact absurd hbeyond (Nat.not_lt_of_gt h)
  · exact he

theorem emit_of_full (h : s.tlen = s.params.tapeCap) (v : Digit) : emit v s = .next (s.raise .tapeOverflow) :=
  if_pos h

/-! ### out -/

theorem exec_out (o : Combo) (s : State) : exec (.out o) s = withCombo o s fun v => emit (v.setWidth 3) s := rfl

/-- out with a legal operand byte comes to the append, with the value the byte denotes modulo 8 (R140). -/
theorem exec_out_of_le_six (h : opd.toNat ≤ 6) (s : State) :
    ∃ d : Digit, d.toNat = comboValue s opd % 8 ∧ exec (.out (Combo.ofByte opd)) s = emit d s := by
  obtain ⟨v, hresolve, hv⟩ := resolveCombo_of_le_six h s
  refine ⟨v.setWidth 3, ?_, by rw [exec_out, withCombo_of_some hresolve]⟩
  rw [BitVec.toNat_setWidth, hv]

theorem exec_out_of_room (h : opd.toNat ≤ 6) (hroom : s.tlen < s.params.tapeCap) :
    ∃ d : Digit, d.toNat = comboValue s opd % 8 ∧
      exec (.out (Combo.ofByte opd)) s = .next (s.tapeAppend d).advance := by
  obtain ⟨d, hd, hexec⟩ := exec_out_of_le_six h s
  exact ⟨d, hd, hexec.trans (emit_of_room hroom d)⟩

theorem exec_out_of_full (h : opd.toNat ≤ 6) (hfull : s.tlen = s.params.tapeCap) :
    exec (.out (Combo.ofByte opd)) s = .next (s.raise .tapeOverflow) := by
  obtain ⟨d, _, hexec⟩ := exec_out_of_le_six h s
  exact hexec.trans (emit_of_full hfull d)

theorem State.advance_tapeEntry (s : State) (i : Nat) : s.advance.tapeEntry i = s.tapeEntry i := rfl

/-- Settles O16: with room out is an append and the sequential advance; its two faults store nothing. -/
theorem outAppendsTheComboModuloEight : Obligations.OutAppendsTheComboModuloEight := by
  intro s opd
  refine ⟨decode_five opd, fun hlegal hroom => ?_,
    fun hillegal => exec_combo_of_seven_le hillegal (by simp [comboInstrs]) s,
    fun hlegal hfull => exec_out_of_full hlegal hfull⟩
  obtain ⟨d, hd, hexec⟩ := exec_out_of_room hlegal hroom
  refine ⟨(s.tapeAppend d).advance, hexec, rfl, ?_, fun i hi => ?_⟩
  · rw [State.advance_tapeEntry, State.tapeEntry_tapeAppend_same, hd]
  · rw [State.advance_tapeEntry, State.tapeEntry_tapeAppend_other s d hi]

end Sys2Proof.Machine

/-! ## Faults

Where each cause of R151 is raised, in which order one step tests for them (R157), and what a fault leaves as it was
(R150). -/

namespace Sys2Proof.Machine

variable {i : Instr} {s t : State} {opc opd : Byte}

/-! ### Instructions that complete -/

/-- What every instruction that completes has in common: STATE and CAUSE stand, and it is counted (R96). -/
structure State.Completes (s t : State) : Prop where
  runState : t.runState = s.runState
  cause : t.cause = s.cause
  steps : t.steps = s.steps + 1

theorem State.completes_retireAt (s : State) (target : IpWord) : s.Completes (s.retireAt target) := ⟨rfl, rfl, rfl⟩

theorem State.completes_advance (s : State) : s.Completes s.advance := s.completes_retireAt _

theorem State.completes_writeReg_advance (s : State) (r : Reg) (v : Word) : s.Completes (s.writeReg r v).advance := by
  rw [State.advance_writeReg]
  exact ⟨by simp, by simp, by simp⟩

theorem State.completes_tapeAppend_advance (s : State) (v : Digit) : s.Completes (s.tapeAppend v).advance :=
  ⟨rfl, rfl, rfl⟩

/-- A write of a register and the advance after it, where that is all an instruction answers. -/
theorem State.completes_of_writeReg {r : Reg} {v : Word} {x : Result} (hx : x = .next (s.writeReg r v).advance)
    (h : x = .next t) : s.Completes t := by
  cases hx.symm.trans h
  exact s.completes_writeReg_advance r v

/-- The three instructions that take any operand byte, over that byte (R76, R77). -/
def literalInstrs (opd : Byte) : List Instr := [.bxl opd, .jnz opd, .bxc opd]

/-- bxl, jnz and bxc complete whatever their operand byte is (R153). -/
theorem exec_literal_completes (hi : i ∈ literalInstrs opd) (s : State) :
    ∃ t, exec i s = .next t ∧ s.Completes t := by
  simp only [literalInstrs, List.mem_cons, List.not_mem_nil, or_false] at hi
  rcases hi with rfl | rfl | rfl
  · exact ⟨_, exec_bxl opd s, s.completes_writeReg_advance .B _⟩
  · by_cases ha : s.a = 0
    · exact ⟨_, exec_jnz_not_taken ha opd, s.completes_advance⟩
    · exact ⟨_, exec_jnz_taken ha opd, s.completes_retireAt _⟩
  · exact ⟨_, exec_bxc opd s, s.completes_writeReg_advance .B _⟩

/-- A combo instruction with a legal operand byte completes, unless it is an out that finds the tape full. -/
theorem exec_combo_next_cases (hlegal : opd.toNat ≤ 6) (hi : i ∈ comboInstrs opd) (h : exec i s = .next t) :
    s.Completes t ∨ i = .out (Combo.ofByte opd) ∧ s.tlen = s.params.tapeCap ∧ t = s.raise .tapeOverflow := by
  simp only [comboInstrs, List.mem_cons, List.not_mem_nil, or_false] at hi
  rcases hi with rfl | rfl | rfl | rfl | rfl
  · exact .inl (State.completes_of_writeReg (shiftInto_eq_floor .A hlegal s) h)
  · exact .inl (State.completes_of_writeReg (exec_bst_of_le_six hlegal s) h)
  · obtain ⟨d, _, hout⟩ := exec_out_of_le_six hlegal s
    rw [hout] at h
    rcases emit_cases d s with ⟨hfull, he⟩ | ⟨_, he⟩ | ⟨_, he⟩ <;> cases he.symm.trans h
    · exact .inr ⟨rfl, hfull, rfl⟩
    · exact .inl (s.completes_tapeAppend_advance d)
  · exact .inl (State.completes_of_writeReg (shiftInto_eq_floor .B hlegal s) h)
  · exact .inl (State.completes_of_writeReg (shiftInto_eq_floor .C hlegal s) h)

/-- Settles O25: an instruction that completes leaves CAUSE, and a full tape has another code than an illegal operand. -/
theorem invalidOperandOnlyFromComboInstructions : Obligations.InvalidOperandOnlyFromComboInstructions := by
  intro s opd
  refine ⟨fun hillegal i hi => exec_combo_of_seven_le hillegal hi s, fun hlegal i hi t h hready => ?_, fun i hi => ?_⟩
  · obtain ⟨_, hcause, _⟩ := hready
    rcases exec_combo_next_cases hlegal hi h with hcompletes | ⟨_, _, rfl⟩
    · rw [hcompletes.cause, hcause]
      decide
    · exact (by decide : FaultCause.code .tapeOverflow ≠ 2)
  · obtain ⟨t, h, hcompletes⟩ := exec_literal_completes hi s
    exact ⟨t, h, hcompletes.runState, hcompletes.cause⟩

/-! ### The step cap -/

theorem step_of_step_cap (hready : s.Ready) (hip : s.ip.toNat + 1 < s.plen.toNat) (hlimit : s.atLimit) :
    step s = .next (s.raise .executionLimitExceeded) := by
  have ⟨hrunning, _⟩ := hready
  calc step s
      = blockStep s := step_of_ready hready
    _ = .next (s.raise .executionLimitExceeded) := blockStep_atLimit hrunning (Nat.not_le.mpr hip) hlimit

/-- Settles O24: the cap is tested after the halt test and before the fetch (R92). -/
theorem stepCapRaisesExecutionLimitExceeded : Obligations.StepCapRaisesExecutionLimitExceeded :=
  fun s hready hlimit => ⟨fun hip => step_of_step_cap hready hip hlimit, fun hend => haltTestEndsTheRun s hready hend⟩

/-! ### The order of the tests -/

/-- The opcodes of the five combo instructions (R73, R75). -/
abbrev IsComboOpcode (opc : Byte) : Prop := opc = 0 ∨ opc = 2 ∨ opc = 5 ∨ opc = 6 ∨ opc = 7

/-- A defined opcode selects a combo instruction, which is out for opcode 5 only, or one that takes any operand byte
(R75). -/
theorem decode_cases_of_lt_eight (h : opc.toNat < 8) (opd : Byte) :
    ∃ i, decode opc opd = .ok i ∧
      (IsComboOpcode opc ∧ i ∈ comboInstrs opd ∧ (i = .out (Combo.ofByte opd) → opc = 5) ∨ i ∈ literalInstrs opd) := by
  rcases opcode_cases opc with hillegal | rfl | rfl | rfl | rfl | rfl | rfl | rfl | rfl
  · exact absurd h (Nat.not_lt.mpr hillegal)
  all_goals exact ⟨_, rfl, by simp [IsComboOpcode, comboInstrs, literalInstrs]⟩

theorem decode_of_combo_opcode (h : IsComboOpcode opc) (opd : Byte) :
    ∃ i, decode opc opd = .ok i ∧ i ∈ comboInstrs opd := by
  rcases h with rfl | rfl | rfl | rfl | rfl
  all_goals exact ⟨_, rfl, by simp [comboInstrs]⟩

theorem operand_legal_of_combo_opcode (hcombo : IsComboOpcode opc) (h : ¬(IsComboOpcode opc ∧ 7 ≤ opd.toNat)) :
    opd.toNat ≤ 6 :=
  Nat.le_of_lt_succ (Nat.not_le.mp fun hseven => h ⟨hcombo, hseven⟩)

/-- Where none of the last three tests of R157 applies, the decoder reads an instruction, and it completes. -/
theorem decoded_instruction_completes (hopc : opc.toNat < 8) (hoperand : ¬(IsComboOpcode opc ∧ 7 ≤ opd.toNat))
    (hroom : ¬(opc = 5 ∧ s.tlen = s.params.tapeCap)) :
    ∃ i, decode opc opd = .ok i ∧ ∀ t, exec i s = .next t → s.Completes t := by
  obtain ⟨i, hdecode, ⟨hcombo, hi, hout⟩ | hi⟩ := decode_cases_of_lt_eight hopc opd
  · have hlegal : opd.toNat ≤ 6 := operand_legal_of_combo_opcode hcombo hoperand
    refine ⟨i, hdecode, fun t h => ?_⟩
    rcases exec_combo_next_cases hlegal hi h with hcompletes | ⟨hisout, hfull, _⟩
    · exact hcompletes
    · exact absurd ⟨hout hisout, hfull⟩ hroom
  · obtain ⟨u, hu, hcompletes⟩ := exec_literal_completes hi s
    refine ⟨i, hdecode, fun t h => ?_⟩
    cases hu.symm.trans h
    exact hcompletes

/-- Settles O27: the tests before the fetch, then the decoder's, then those of the instruction that it reads. -/
theorem stepReportsTheFirstEventThatApplies : Obligations.StepReportsTheFirstEventThatApplies := by
  intro s opc opd hi hready hopc hopd
  have ⟨hrunning, hcause, _⟩ := hready
  have ⟨_, hplen, _⟩ := hi
  split_ifs with hend hlimit hillegal hoperand hfull
  · exact haltTestEndsTheRun s hready hend
  · exact step_of_step_cap hready (Nat.not_le.mp hend) hlimit
  · exact step_of_illegal_opcode hready hplen (Nat.not_le.mp hend) hlimit (hopc ▸ hillegal)
  all_goals
    have hstep {i : Instr} (hdecode : decode opc opd = .ok i) : step s = exec i s := by
      rw [hopc, hopd] at hdecode
      exact (stepRunsTheDecodedInstruction s i hready hplen (Nat.not_le.mp hend) hlimit hdecode).2
  · obtain ⟨hcombo, hseven⟩ := hoperand
    obtain ⟨i, hdecode, hmem⟩ := decode_of_combo_opcode hcombo opd
    exact (hstep hdecode).trans (exec_combo_of_seven_le hseven hmem s)
  · obtain ⟨rfl, hfull⟩ := hfull
    have hlegal : opd.toNat ≤ 6 := operand_legal_of_combo_opcode (by decide) hoperand
    exact (hstep (decode_five opd)).trans (exec_out_of_full hlegal hfull)
  · obtain ⟨i, hdecode, hexec⟩ := decoded_instruction_completes (Nat.not_le.mp hillegal) hoperand hfull
    obtain ⟨t, h⟩ := step_exists_next hi
    have hcompletes : s.Completes t := hexec t (hstep hdecode ▸ h)
    exact ⟨t, h, hcompletes.runState.trans hrunning, hcompletes.cause.trans hcause, hcompletes.steps⟩

/-! ### A tape of at least STEP_LIMIT entries -/

/-- Each entry was emitted by one counted instruction, so below the step cap the tape has room (R155). -/
theorem State.Inv.tape_has_room (hi : s.Inv) (hcap : s.params.stepLimit ≤ s.params.tapeCap) (hlimit : ¬s.atLimit) :
    s.tlen < s.params.tapeCap := by
  obtain ⟨_, _, _, ⟨_, htlen, hsteps⟩, _⟩ := hi
  calc s.tlen
      ≤ s.steps := htlen
    _ < s.params.stepLimit := Nat.lt_of_le_of_ne hsteps hlimit
    _ ≤ s.params.tapeCap := hcap

/-- By R157 a full tape is reported only below the step cap. -/
theorem step_cause_ne_tapeOverflow (hi : s.Inv) (hready : s.Ready) (hcap : s.params.stepLimit ≤ s.params.tapeCap)
    (h : step s = .next t) : t.cause ≠ 4 := by
  have hfirst := stepReportsTheFirstEventThatApplies s _ _ hi hready rfl rfl
  have ⟨_, hcause, _⟩ := hready
  rw [h] at hfirst
  split_ifs at hfirst with _ hlimit _ _ hfull
  · cases hfirst
    simp [hcause]
  · cases hfirst
    simp
  · cases hfirst
    simp
  · cases hfirst
    simp
  · obtain ⟨_, hfull⟩ := hfull
    exact absurd hfull (Nat.ne_of_lt (hi.tape_has_room hcap hlimit))
  · obtain ⟨u, hu, _, hcause', _⟩ := hfirst
    cases hu
    simp [hcause']

/-- Settles O26. -/
theorem tapeOverflowNeedsASmallTape : Obligations.TapeOverflowNeedsASmallTape := by
  intro s opd hi hready hlegal
  have ⟨hrunning, _⟩ := hready
  refine ⟨fun hfull => exec_out_of_full hlegal hfull,
    fun hcap => ⟨fun t h => step_cause_ne_tapeOverflow hi hready hcap h, fun hsteps => ?_⟩⟩
  obtain ⟨d, _, hexec⟩ := exec_out_of_room hlegal (hi.tape_has_room hcap (Nat.ne_of_lt hsteps))
  exact ⟨_, hexec, hrunning, rfl⟩

/-! ### After a fault -/

/-- A faulted block that the host leaves alone stands still (R150, R166). -/
theorem step_raise (hmoves : s.hostMoves = []) (e : FaultCause) : step (s.raise e) = .next (s.raise e) := by
  obtain ⟨_, hcode⟩ := e.code_bounds
  exact (noStepOutsideRunning (s.raise e) nofun hcode).1 hmoves

/-- Settles O28: of the ways in which a step of the block can change STATE, only a fault leads to FAULTED. -/
theorem faultsArePreciseAndFinal : Obligations.FaultsArePreciseAndFinal := by
  intro s t _ hready h hfaulted
  have ⟨hrunning, _, hmoves⟩ := hready
  rw [step_of_ready hready] at h
  rcases blockStep_runState_cases h with hsame | ⟨_, ⟨_, rfl⟩ | ⟨e, rfl⟩⟩
  · exact absurd (hfaulted.symm.trans (hsame.trans hrunning)) nofun
  · exact absurd hfaulted nofun
  · obtain ⟨hone, hfour⟩ := e.code_bounds
    exact ⟨rfl, hone, hfour, step_raise hmoves e⟩

end Sys2Proof.Machine

/-! ## RESET, START, and the host's duties around a run

The next state of the two commands (R180, R182), what stands after a run until one of them (R183), and the loading sequence
(R184): RESET, then the bytes of the program one by one, then PLEN, the INIT registers and START. -/

namespace Sys2Proof.Machine

variable {s t : State}

/-! ### RESET -/

theorem State.reset_paramsOk : State.reset.ParamsOk := by decide

/-- Settles O48: the invariant does not speak of the count of RESETs, in which alone the model's reset state differs from
what a RESET makes of it. -/
theorem resetMeetsTheInvariant : Obligations.ResetMeetsTheInvariant :=
  State.hostReset_inv State.reset_paramsOk

theorem step_reset {rest : List HostMove} (hcause : s.cause.toNat ≤ 4) (hmoves : s.hostMoves = .reset :: rest) :
    step s = .next { s with hostMoves := rest }.hostReset :=
  step_move hcause hmoves nofun

/-- An idle block with CAUSE NONE stands still while its host makes no move (R166, R181). -/
theorem step_idle (hidle : s.runState = .idle) (hcause : s.cause = 0) (hmoves : s.hostMoves = []) :
    step s = .next s :=
  (noStepOutsideRunning s (by simp [hidle]) (by simp [hcause])).1 hmoves

theorem State.status_of_idle (hidle : s.runState = .idle) (hcause : s.cause = 0) : s.status = 0 :=
  s.status_of_cause_zero hidle hcause

/-- Settles O33: the values are those that `State.hostReset` and `State.reset` write out. -/
theorem resetSetsEveryRegister : Obligations.ResetSetsEveryRegister := by
  refine ⟨fun s rest hcause hmoves => ?_, ?_⟩
  · exact ⟨_, step_reset hcause hmoves, rfl, rfl, rfl, rfl, rfl, rfl, rfl, rfl, rfl, rfl, rfl, rfl,
      State.status_of_idle rfl rfl, rfl, fun hrest => step_idle rfl rfl hrest⟩
  · exact ⟨_, rfl, rfl, rfl, rfl, rfl, rfl, rfl, rfl, rfl, rfl, rfl, rfl, rfl, State.status_of_idle rfl rfl, rfl,
      step_idle rfl rfl rfl⟩

/-! ### START -/

/-- Settles O35: START outside RUNNING by `State.start_of_not_running`, and ignored by
`State.hostMove_start_of_running`. -/
theorem startBeginsAFreshRun : Obligations.StartBeginsAFreshRun := by
  intro s rest hcause hmoves
  have hstep : step s = .next ({ s with hostMoves := rest }.hostMove .start) := step_move hcause hmoves nofun
  refine ⟨fun hr => ?_, fun hr => ?_⟩ <;> rw [hstep]
  · rw [State.hostMove, State.start_of_not_running { s with hostMoves := rest } hr]
    rfl
  · rw [State.hostMove_start_of_running { s with hostMoves := rest } hr]
    rfl

/-! ### The result of a run -/

/-- The emitted digits are read from TAPE below TLEN only (R26). -/
theorem State.emitted_congr (htlen : t.tlen = s.tlen) (htape : ∀ j, t.tapeEntry j = s.tapeEntry j) :
    t.emitted = s.emitted := by
  rw [State.emitted, State.emitted, htlen, funext htape]

/-- Of the host's moves only START and RESET touch the result tuple (R183). -/
theorem State.hostMove_result (s : State) {move : HostMove} (hstart : move ≠ .start) (hreset : move ≠ .reset) :
    (s.hostMove move).result = s.result := by
  obtain ⟨ha, hb, hc, hip, htape, htlen, hr, hcause, hsteps, _, hresets, _⟩ := s.hostMove_frame hstart hreset
  have hemitted := State.emitted_congr htlen (State.tapeEntry_congr htape hresets)
  simp only [State.result, hr, hcause, hemitted, ha, hb, hc, hip, hsteps]

/-- Settles O46: outside RUNNING the block keeps all of its state, and the host's other moves keep the result. -/
theorem resultIsKeptUntilStartOrReset : Obligations.ResultIsKeptUntilStartOrReset := by
  intro s t hr hstart hreset h
  rcases step_next_agent h with ⟨rest, _, hblock⟩ | ⟨move, rest, hmoves, _, rfl⟩
  · rw [blockStep_not_running (s := { s with hostMoves := rest }) hr] at hblock
    cases hblock
    rfl
  · have hhead : s.hostMoves.head? = some move := by rw [hmoves]; rfl
    exact State.hostMove_result { s with hostMoves := rest } (fun hm => hstart (hm ▸ hhead))
      (fun hm => hreset (hm ▸ hhead))

/-! ### Loading the program -/

/-- The bytes of PMEM from address `a` on are those of `bytes`. -/
def State.Holds (s : State) (a : Nat) (bytes : List Byte) : Prop :=
  (List.range' a bytes.length).map s.pmemByte = bytes

theorem State.holds_nil (s : State) (a : Nat) : s.Holds a [] := rfl

theorem State.holds_cons {a : Nat} {b : Byte} {bytes : List Byte} (hb : s.pmemByte a = b)
    (hbytes : s.Holds (a + 1) bytes) : s.Holds a (b :: bytes) := by
  rw [State.Holds, List.length_cons, List.range'_succ, List.map_cons, hb, hbytes]

/-- The program is what PMEM holds from address 0 on, PLEN bytes long (R28). -/
theorem State.program_of_holds {program : List Byte} (hplen : s.plen.toNat = program.length) (h : s.Holds 0 program) :
    s.program = program := by
  rw [State.program, hplen, List.range_eq_range']
  exact h

theorem step_writePmem {a : Nat} {b : Byte} {rest : List HostMove} (hr : s.runState ≠ .running)
    (hcause : s.cause.toNat ≤ 4) (ha : a < Config.progCap) (hmoves : s.hostMoves = .writePmem a b :: rest) :
    step s = .next { s.writePmem a b with hostMoves := rest, reply := none } := by
  rw [step_move hcause hmoves nofun, State.hostMove, State.hostWritePmem_of_writable { s with hostMoves := rest } hr ha]
  rfl

/-- The host's writes from address `a` on put the bytes there and leave the addresses below `a` (R36, R184). -/
theorem run_loadMoves {a : Nat} {bytes : List Byte} {rest : List HostMove} (hr : s.runState ≠ .running)
    (hcause : s.cause.toNat ≤ 4) (hcap : a + bytes.length ≤ Config.progCap) (hreply : s.reply = none)
    (hmoves : s.hostMoves = loadMoves a bytes ++ rest) :
    ∃ t, run bytes.length s = .next t ∧ t = { s with pmem := t.pmem, hostMoves := rest } ∧ t.Holds a bytes ∧
      ∀ i < a, t.pmemByte i = s.pmemByte i := by
  induction bytes generalizing s a with
  | nil =>
    have hrest : s.hostMoves = rest := hmoves
    exact ⟨s, rfl, by rw [← hrest], s.holds_nil a, fun _ _ => rfl⟩
  | cons b bytes ih =>
    rw [List.length_cons] at hcap
    have hstep := step_writePmem hr hcause (by omega) hmoves
    obtain ⟨t, hrun, ht, hholds, hbelow⟩ :=
      ih (s := { s.writePmem a b with hostMoves := loadMoves (a + 1) bytes ++ rest, reply := none }) hr hcause
        (by omega) rfl rfl
    have hfirst : t.pmemByte a = b := (hbelow a a.lt_succ_self).trans (s.pmemByte_writePmem_same a b)
    refine ⟨t, (run_succ hstep _).trans hrun, ?_, State.holds_cons hfirst hholds, fun i hi => ?_⟩
    · rw [ht, hreply]
      rfl
    · exact (hbelow i (Nat.lt_succ_of_lt hi)).trans (s.pmemByte_writePmem_other b (Nat.ne_of_lt hi))

/-! ### Setting up the run -/

/-- The moves of `runMoves` after the program is loaded (R184). -/
def setupMoves (length : Nat) (a b c : Word) : List HostMove :=
  [.writeRegister 7 length, .writeRegister 0 a.toNat, .writeRegister 1 b.toNat, .writeRegister 2 c.toNat, .start]

theorem runMoves_eq (program : List Byte) (a b c : Word) :
    runMoves program a b c = .reset :: (loadMoves 0 program ++ setupMoves program.length a b c) := rfl

/-- The step of a register write whose effect is known (R35). -/
theorem step_writeRegister {n : BitVec 4} {v : Nat} {rest : List HostMove} (hcause : s.cause.toNat ≤ 4)
    (hmoves : s.hostMoves = .writeRegister n v :: rest)
    (heffect : { s with hostMoves := rest }.hostWriteRegister n v = t) : step s = .next t.noAnswer := by
  rw [step_move hcause hmoves nofun, State.hostMove, heffect]

/-- The host writes PLEN and the INIT registers outside RUNNING, and START copies the latter (R35, R182). -/
theorem run_setupMoves {length : Nat} {a b c : Word} (hr : s.runState ≠ .running) (hcause : s.cause.toNat ≤ 4)
    (hcap : length ≤ Config.progCap) (hmoves : s.hostMoves = setupMoves length a b c) :
    run 5 s =
      .next { s with
        plen := BitVec.ofNat 16 length, initA := a, initB := b, initC := c, a := a, b := b, c := c, ip := 0, tlen := 0,
        steps := 0, cause := 0, runState := .running, hostMoves := [], reply := none } := by
  have hword (v : Word) : BitVec.ofNat 64 v.toNat = v := by rw [BitVec.ofNat_toNat, BitVec.setWidth_eq]
  -- `by exact` waits until unification has found the state that the fact is about.
  refine (run_succ (step_writeRegister hcause hmoves (State.hostWriteRegister_plen _ (by exact hr) hcap)) 4).trans ?_
  refine (run_succ (step_writeRegister (by exact hcause) rfl
    (State.hostWriteRegister_initA _ (by exact hr) a.toNat)) 3).trans ?_
  refine (run_succ (step_writeRegister (by exact hcause) rfl
    (State.hostWriteRegister_initB _ (by exact hr) b.toNat)) 2).trans ?_
  refine (run_succ (step_writeRegister (by exact hcause) rfl
    (State.hostWriteRegister_initC _ (by exact hr) c.toNat)) 1).trans ?_
  refine (run_succ ((startBeginsAFreshRun _ [] (by exact hcause) rfl).1 (by exact hr)) 0).trans ?_
  simp only [hword]
  rfl

/-- Settles O47: after RESET the block is idle, the writes of `run_loadMoves` leave it so, and `run_setupMoves` starts the
run. -/
theorem loadingSequenceStartsTheProgram : Obligations.LoadingSequenceStartsTheProgram := by
  intro s program a b c hcause hcap hmoves
  have hreset := step_reset hcause (hmoves.trans (runMoves_eq program a b c))
  obtain ⟨t, hload, ht, hholds, _⟩ :=
    run_loadMoves (s := { s with hostMoves := loadMoves 0 program ++ setupMoves program.length a b c }.hostReset)
      (by simp) (Nat.zero_le _) (by rwa [Nat.zero_add]) rfl rfl
  have hr : t.runState ≠ .running := by rw [ht]; simp
  have hcause' : t.cause.toNat ≤ 4 := by rw [ht]; exact Nat.zero_le _
  have hparams : t.params = s.params := by rw [ht]; rfl
  have hsetup := run_setupMoves hr hcause' hcap (by rw [ht])
  have hlength : (BitVec.ofNat 16 program.length).toNat = program.length :=
    Nat.mod_eq_of_lt (Nat.lt_of_le_of_lt hcap (by decide))
  have hrun := (run_succ hreset (program.length + 5)).trans ((run_add program.length 5 hload).trans hsetup)
  exact ⟨_, hrun, ⟨rfl, rfl, rfl⟩, State.program_of_holds hlength hholds, rfl, rfl, rfl, rfl, rfl, rfl, hparams⟩

end Sys2Proof.Machine

/-! ## What the spec leaves open

The free contents of the two memories after RESET (R180), and where the model itself stops: at a reserved CAUSE, at a fetch
past the end of PMEM and at an append past the end of TAPE. No run reaches the states of the last three. -/

namespace Sys2Proof.Machine

variable {s : State} {opd : Byte}

/-! ### The memories after RESET -/

/-- No byte has been written since the RESET, so every address reads as its free value (R180). -/
@[simp] theorem State.hostReset_pmemByte (s : State) (i : Nat) :
    s.hostReset.pmemByte i = Config.pmemAtReset (s.resets + 1) i := by
  rw [State.pmemByte, State.hostReset_pmem, Memory.read_nil, State.hostReset_resets, Option.getD_none]

@[simp] theorem State.hostReset_tapeEntry (s : State) (i : Nat) :
    s.hostReset.tapeEntry i = Config.tapeAtReset (s.resets + 1) i := by
  rw [State.tapeEntry, State.hostReset_tape, Memory.read_nil, State.hostReset_resets, Option.getD_none]

/-- Settles O34: a step that answers a next state meets no reserved CAUSE, so it is the RESET, which lists no cell of either
memory. -/
theorem resetLeavesMemoriesFree : Obligations.ResetLeavesMemoriesFree := by
  intro s t rest hmoves h
  obtain ⟨hcause, _⟩ := step_next_cases h
  rw [step_reset hcause hmoves] at h
  cases h
  exact ⟨State.hostReset_resets _, fun i => ⟨State.hostReset_pmemByte _ i, State.hostReset_tapeEntry _ i⟩⟩

/-! ### A reserved CAUSE -/

/-- Settles O53: the step tests CAUSE before anything else. -/
theorem reservedCauseIsRefused : Obligations.ReservedCauseIsRefused := fun _ => step_of_reserved

/-! ### A fetch past the end of PMEM -/

theorem memRead_of_lt {address : Nat} (h : address < Config.progCap) (s : State) :
    memRead s address = .ok (s.pmemByte address) := if_pos h

theorem memRead_of_le {address : Nat} (h : Config.progCap ≤ address) (s : State) :
    memRead s address = .error (.fetchOutsidePmem address) := if_neg (Nat.not_lt.mpr h)

/-- The opcode byte is read first, so its address is the one reported (R93). -/
theorem fetch_of_opcode_outside (h : Config.progCap ≤ s.ip.toNat) :
    fetch s = .error (.fetchOutsidePmem s.ip.toNat) := by
  rw [fetch, memRead_of_le h]

/-- With IP at the last byte of PMEM only the operand byte lies outside. -/
theorem fetch_of_operand_outside (hopcode : s.ip.toNat < Config.progCap) (hoperand : Config.progCap ≤ s.ip.toNat + 1) :
    fetch s = .error (.fetchOutsidePmem (s.ip.toNat + 1)) := by
  rw [fetch, memRead_of_lt hopcode, memRead_of_le hoperand]

/-- Past the halt test and the step cap, a fetch that fails is the fault of the step. -/
theorem step_of_fetch_error {f : Fault} (hready : s.Ready) (hend : ¬s.atEnd) (hlimit : ¬s.atLimit)
    (hfetch : fetch s = .error f) : step s = .fault f := by
  have ⟨hrunning, _⟩ := hready
  rw [step_of_ready hready, blockStep, if_neg (not_not.mpr hrunning), if_neg hend, if_neg hlimit, hfetch]

/-! ### An append past the end of TAPE -/

theorem emit_of_beyond (h : s.params.tapeCap < s.tlen) (v : Digit) : emit v s = .fault (.appendOutsideTape s.tlen) := by
  rw [emit, if_neg (Nat.ne_of_gt h), if_pos h]

theorem exec_out_of_beyond (hlegal : opd.toNat ≤ 6) (hbeyond : s.params.tapeCap < s.tlen) :
    exec (.out (Combo.ofByte opd)) s = .fault (.appendOutsideTape s.tlen) := by
  obtain ⟨d, _, hexec⟩ := exec_out_of_le_six hlegal s
  exact hexec.trans (emit_of_beyond hbeyond d)

/-- Settles O54: the fetch fails at its first byte, or at IP = 255 at its second; the append fails beyond TAPE_CAP. -/
theorem outOfBoundsStatesFault : Obligations.OutOfBoundsStatesFault := by
  refine ⟨fun s hready hip hsteps => ?_, fun s opd hlegal hbeyond => exec_out_of_beyond hlegal hbeyond⟩
  have hend : ¬s.atEnd := Nat.not_le.mpr hip
  refine ⟨fun houtside => ?_, fun hlast => ?_⟩
  · exact step_of_fetch_error hready hend hsteps (fetch_of_opcode_outside houtside)
  · have hfetch : fetch s = .error (.fetchOutsidePmem (s.ip.toNat + 1)) :=
      fetch_of_operand_outside (by rw [hlast]; decide) (by rw [hlast])
    rw [hlast] at hfetch
    exact step_of_fetch_error hready hend hsteps hfetch

end Sys2Proof.Machine
